-- ==== Sys2Proof/Word.lean ====
section
/-! DEFINITION. The word types of MIXER (spec/00_scope.md R8, R10). -/

namespace Sys2Proof

/-- A 32-bit word of the command port, and the type of every 32-bit field (R8 W_PHASE, W_DUR, W_PLAYED, W_ENV). -/
abbrev Word := BitVec 32

/-- An 8-bit value: VOL, `amplitude`, LEVEL, the phase byte, the opcode (R8 W_AMP, W_LEVEL). -/
abbrev Byte := BitVec 8

/-- A 64-bit time in units of 1/TPS s (R8 W_TIME). -/
abbrev Time := BitVec 64

end Sys2Proof
end

