-- ==== Sys2Proof/Config.lean ====
section
/-! DEFINITION. What an implementation fixes, and the free values: the answers of HOST that nothing in the
spec constrains (spec/00_scope.md R8; spec/93_implementation_defined.md U5 to U10). -/

namespace Sys2Proof

/-- COMMAND_ATOMICITY (R8): the granularity at which TICK may interleave with a command. -/
inductive Atomicity where
  /-- Normative: every read and write of one field is one step (20_memory.md R66). -/
  | perField
  /-- Idealised: a whole command is one step (20_memory.md R67). -/
  | perCommand
  deriving DecidableEq, Repr

/-- The parameters of the step relation (R8) that are not the length of the pool. They stand in `State`, so that a
statement about every state is a statement about every value of them; no step changes them (log 2). -/
structure Params where
  /-- TPS: time units of `now()` per second. -/
  tps : Nat
  /-- COMMAND_ATOMICITY. -/
  atomicity : Atomicity
  deriving DecidableEq, Repr

namespace Config

/-- R8: the default pool size C. -/
def defaultChannels : Nat := 64

/-- R8: the largest legal pool size, 2^24. -/
def maxChannels : Nat := 2 ^ 24

/-- R8: the defaults TPS = 1000 and `per_field`, the normative setting. -/
def defaultParams : Params := { tps := 1000, atomicity := .perField }

/-- Free value (log 3): HOST's k-th answer to `now()` where no script gives it (10_state.md R36; U8). -/
opaque freeNow : Nat → Time

/-- Free value (log 3): HOST's k-th answer to the timer install where no script gives it (10_state.md R37; U7). -/
opaque freeInstall : Nat → Bool

/-- Free value (log 3): whether a TICK comes first at the k-th step boundary with RUNNING = 1, where no script
says (60_exceptions.md R230, R234; U9). -/
opaque freeTick : Nat → Bool

/-- Free value (log 3): the k-th draw from WRITE_ORDER where no script gives it (20_memory.md R66; U5). -/
opaque freeOrder : Nat → Nat

/-- SINE_TABLE (41_mixer.md R170; U10): the 64-entry quarter-wave table, whose contents the source does not give.
Outside the datapath: nothing reads it. -/
opaque sineTable : Fin 64 → Int

/-- The optional sine primitive (41_mixer.md R170; U10): the value for a phase byte. No command selects it, TICK does
not use it and no statement is made about it. -/
opaque sineWave : (Fin 64 → Int) → Byte → Int

end Config

end Sys2Proof
end

