-- ==== Sys2Proof/Syntax.lean ====
section
/-! DEFINITION. The instructions of MIXER: one constructor for each row of spec/opcode_table.json, with the operands
in the order of spec/30_encoding.md R93 (VOL, which stands in the command word, first). -/

namespace Sys2Proof

/-- The 14 commands of the command port and the TICK event (30_encoding.md R93, R94). -/
inductive Instr where
  /-- SETUP sr, outpin, enpin (40_scheduler.md R111). -/
  | setup (sr outPin enPin : Word)
  /-- PLAY freq, vol, dur, delay (40_scheduler.md R118). -/
  | play (vol : Byte) (freq dur delay : Word)
  /-- PLAY_CH ch, freq, vol, dur, delay (40_scheduler.md R119). -/
  | playCh (vol : Byte) (ch freq dur delay : Word)
  /-- STOP ch (40_scheduler.md R120). -/
  | stop (ch : Word)
  /-- STOP_ALL (40_scheduler.md R121). -/
  | stopAll
  /-- CANCEL ch (40_scheduler.md R122). -/
  | cancel (ch : Word)
  /-- UPDATE (40_scheduler.md R123). -/
  | update
  /-- FIND_FREE (42_query.md R191). -/
  | findFree
  /-- IS_ACTIVE ch (42_query.md R195). -/
  | isActive (ch : Word)
  /-- ACTIVE_COUNT (42_query.md R193). -/
  | activeCount
  /-- PLAYING_COUNT (42_query.md R194). -/
  | playingCount
  /-- MAX_CHANNELS (42_query.md R196). -/
  | maxChannels
  /-- START_TIME (42_query.md R197). -/
  | startTime
  /-- REBUILD_LIST (42_query.md R192). -/
  | rebuildList
  /-- TICK, the timer event: no command word, CMD cannot issue it (41_mixer.md R160; 30_encoding.md R94). -/
  | tick
  deriving DecidableEq, Repr

/-- The opcodes of the command port, by the mnemonics of 30_encoding.md R93. -/
inductive Opcode where
  | setup | play | playCh | stop | stopAll | cancel | update
  | findFree | isActive | activeCount | playingCount | maxChannels | startTime | rebuildList
  deriving DecidableEq, Repr

/-- A command as it stands on the port (30_encoding.md R80): the command word and the operand words after it. -/
structure RawCommand where
  word : Word
  operands : List Word
  deriving DecidableEq, Repr

end Sys2Proof
end

