-- ==== Sys2Proof/Machine/State.lean ====
section
/-! DEFINITION. The state of MIXER as plain data (spec/10_state.md R20 to R42), the reasons a step can stop, and the
state after reset (spec/70_reset_and_hazards.md R250). -/

namespace Sys2Proof.Machine

/-- One channel record of the pool: the nine fields of 10_state.md R22 to R29. -/
structure Channel where
  /-- R22. -/
  phase : Word
  /-- R23. -/
  phaseIncrement : Word
  /-- R24. -/
  amplitude : Byte
  /-- R25: 0 means indefinite. -/
  durationSamples : Word
  /-- R26. -/
  samplesPlayed : Word
  /-- R27: meaningful only while `scheduled`. -/
  startTime : Time
  /-- R28: written, read by nothing. -/
  envelope : Word
  /-- R29. -/
  active : Bool
  /-- R29. -/
  scheduled : Bool
  deriving DecidableEq, Repr

/-- R42: a channel at reset: every field 0, so Free. -/
def Channel.reset : Channel :=
  { phase := 0, phaseIncrement := 0, amplitude := 0, durationSamples := 0, samplesPlayed := 0,
    startTime := 0, envelope := 0, active := false, scheduled := false }

/-- A value for one field of a channel: one field write without its channel (00_scope.md R13). -/
inductive FieldWrite where
  | phase (v : Word)
  | phaseIncrement (v : Word)
  | amplitude (v : Byte)
  | durationSamples (v : Word)
  | samplesPlayed (v : Word)
  | startTime (v : Time)
  | envelope (v : Word)
  | active (v : Bool)
  | scheduled (v : Bool)
  deriving DecidableEq, Repr

/-- One atomic write of one field of one channel, or of one global register (00_scope.md R13; 20_memory.md R65). -/
inductive Write where
  | channel (i : Nat) (w : FieldWrite)
  | sampleRate (v : Word)
  | running (v : Bool)
  | setupDone (v : Bool)
  | audioStartTime (v : Time)
  /-- SNAP[n] <- v (42_query.md R192). -/
  | snapEntry (n : Nat) (v : Word)
  /-- SNAP_LEN <- v; entries beyond it are no state (10_state.md R42 G6). -/
  | snapLen (v : Word)
  deriving DecidableEq, Repr

/-- What a scan of the pool is for, with what it has gathered so far. -/
inductive ScanGoal where
  /-- PLAY looks for a Free channel to configure (40_scheduler.md R118). -/
  | allocate (vol : Byte) (freq dur delay : Word)
  /-- FIND_FREE (42_query.md R191). -/
  | findFree
  /-- ACTIVE_COUNT, `n` counted so far (42_query.md R193). -/
  | countBusy (n : Word)
  /-- PLAYING_COUNT, `n` counted so far (42_query.md R194). -/
  | countActive (n : Word)
  /-- REBUILD_LIST, `n` entries written so far (42_query.md R192). -/
  | rebuild (n : Nat)
  deriving DecidableEq, Repr

/-- What an in-flight command does next once its pending writes are done: its position in its pseudocode, with the
values it has read (10_state.md R40; 20_memory.md R65). -/
inductive Work where
  /-- SETUP reads SETUP_DONE for its check (R111). -/
  | setupCheck (sr : Word)
  /-- SETUP reads `now()` (R111). -/
  | setupNow (sr : Word)
  /-- SETUP asks HOST for INSTALL_OK (R111, 10_state.md R37). -/
  | setupInstall (sr : Word)
  /-- A scan reads `active` of channel j, or ends where j = C. -/
  | scan (j : Nat) (goal : ScanGoal)
  /-- A scan that read `active` of channel j as 0 reads its `scheduled`. -/
  | scanScheduled (j : Nat) (goal : ScanGoal)
  /-- PLAY reads SAMPLE_RATE for its check (40_scheduler.md R118). -/
  | playCheck (vol : Byte) (freq dur delay : Word)
  /-- PLAY_CH reads SAMPLE_RATE for its check (40_scheduler.md R119). -/
  | playChCheck (vol : Byte) (ch freq dur delay : Word)
  /-- PLAY or PLAY_CH has its channel i: CONFIGURE reads SAMPLE_RATE (R112). -/
  | configure (i : Nat) (vol : Byte) (freq dur delay : Word)
  /-- CONFIGURE has computed the increment and the duration of a delayed arm and reads `now()` (R112, R115). -/
  | configureNow (i : Nat) (vol : Byte) (inc dur delay : Word)
  /-- STOP_ALL goes on at channel i (R121). -/
  | freeFrom (i : Nat)
  /-- CANCEL reads `scheduled` of channel i (R122). -/
  | cancelRead (i : Nat)
  /-- UPDATE reads `now()` (R123). -/
  | updateNow
  /-- UPDATE with time t reads `scheduled` of channel i, or ends where i = C. -/
  | updateScan (t : Time) (i : Nat)
  /-- UPDATE with time t read `scheduled` of channel i as 1 and reads its `start_time`. -/
  | updateStart (t : Time) (i : Nat)
  /-- IS_ACTIVE reads `active` of channel i (42_query.md R195). -/
  | isActiveRead (i : Nat)
  /-- START_TIME reads AUDIO_START_TIME (42_query.md R197). -/
  | startTimeRead
  /-- Nothing is left but to deliver the result words and end (40_scheduler.md R110). -/
  | deliver
  deriving DecidableEq, Repr

/-- The in-flight command (10_state.md R40): its remaining write set (the computed channel index, increment, duration
and start time stand in its writes), where it goes on after them, and its pending result words. -/
structure InFlight where
  work : Work
  writes : List Write
  result : List Word
  deriving DecidableEq, Repr

/-- The model fault codes (60_exceptions.md R223 to R225). -/
inductive FaultCode where
  /-- F_ILLEGAL_COMMAND, code 1 (R223). -/
  | illegalCommand
  /-- F_UNCONFIGURED, code 2 (R224). -/
  | unconfigured
  /-- F_REPEATED_SETUP, code 3 (R225). -/
  | repeatedSetup
  deriving DecidableEq, Repr

/-- The numbers of the fault codes (R223, R224, R225). -/
def FaultCode.number : FaultCode → Nat
  | .illegalCommand => 1
  | .unconfigured => 2
  | .repeatedSetup => 3

/-- The fault record's contents: the code and the offending command word (10_state.md R39). -/
structure FaultRecord where
  code : FaultCode
  word : Word
  deriving DecidableEq, Repr

/-- The events delivered to HOST. -/
inductive Event where
  /-- OutputLevel(v), at every TICK (10_state.md R34; 41_mixer.md R166). -/
  | outputLevel (v : Byte)
  /-- Diag(SETUP_FAILED) (10_state.md R37). -/
  | diagSetupFailed
  deriving DecidableEq, Repr

/-- HOST's inputs (00_scope.md R7; 60_exceptions.md R241): the model's own fields, DESIGN CHOICE (log 3, log 4). Each
answer of HOST is the script's next entry, and where the script has none a free value of `Config` at the counter. -/
structure HostInputs where
  /-- The words CMD has issued on the command port and the block has not taken, oldest first (30_encoding.md R80). -/
  port : List Word
  /-- Answers to `now()`; the last one holds from then on (30_encoding.md R99 `.now`). -/
  clock : List Time
  /-- How many answers to `now()` HOST has given. -/
  clockReads : Nat
  /-- INSTALL_OK answers (30_encoding.md R99 `.install`). -/
  install : List Bool
  /-- How many INSTALL_OK answers HOST has given. -/
  installReads : Nat
  /-- For each step boundary with RUNNING = 1 in turn: does a TICK event come first (60_exceptions.md R230, R234)? -/
  ticks : List Bool
  /-- How many such boundaries have passed. -/
  tickDraws : Nat
  /-- WRITE_ORDER: for each write in turn, which of the writes left in its set it is, modulo their number (20_memory.md
  R66). -/
  order : List Nat
  /-- How many WRITE_ORDER draws were made. -/
  orderDraws : Nat
  deriving DecidableEq, Repr

/-- The state of MIXER (10_state.md R20). -/
structure State where
  /-- The Channel Pool; its length is C (R21). -/
  pool : List Channel
  /-- G0 (R31): 0 means not configured. -/
  sampleRate : Word
  /-- G1 (R32). -/
  running : Bool
  /-- G2 (R38). -/
  setupDone : Bool
  /-- G3 (R33). -/
  audioStartTime : Time
  /-- G4 (R34). -/
  level : Byte
  /-- G6 (R35). -/
  snap : List Word
  /-- G5 (R35). -/
  snapLen : Word
  /-- G7, the fault record FAULT (R39). -/
  fault : Option FaultRecord
  /-- The in-flight command (R40). -/
  inFlight : Option InFlight
  /-- The parameters (00_scope.md R8): constant, log 2. -/
  params : Params
  /-- HOST's inputs: the model's own, log 3. -/
  host : HostInputs
  /-- The result words delivered to CMD, oldest first: the model's own, log 9. -/
  results : List Word
  /-- The events delivered to HOST, oldest first: the model's own, log 9. -/
  events : List Event
  deriving DecidableEq, Repr

/-- Why the machine stops. -/
inductive Fault where
  /-- FAULT is not empty, so neither CMD nor TICK takes a step (60_exceptions.md R228). Raised by `step` alone; safe: the
  source's hardware would go on, and nothing is claimed of it (92_eei_decisions.md D12). -/
  | recorded (code : FaultCode)
  deriving DecidableEq, Repr

/-- Why an instruction is refused. -/
inductive Refusal where
  /-- The instruction has no meaning in the model. Raised by no arm of `exec`: every instruction is modelled; safe. -/
  | notModelled (mnemonic : String)
  deriving DecidableEq, Repr

/-- HOST's inputs with nothing issued, scripted or asked yet: DESIGN CHOICE, log 3. -/
def HostInputs.reset : HostInputs :=
  { port := [], clock := [], clockReads := 0, install := [], installReads := 0,
    ticks := [], tickDraws := 0, order := [], orderDraws := 0 }

/-- R42, R250: the machine after power-on, for a pool of `channels` records and the parameters `p`. -/
def State.resetWith (channels : Nat) (p : Params) : State :=
  { pool := List.replicate channels Channel.reset
    sampleRate := 0, running := false, setupDone := false, audioStartTime := 0, level := 0
    snap := [], snapLen := 0, fault := none, inFlight := none
    params := p, host := HostInputs.reset, results := [], events := [] }

/-- R42, R250: the machine after power-on, with the defaults of 00_scope.md R8 (C = 64, TPS = 1000, `per_field`). -/
def State.reset : State := State.resetWith Config.defaultChannels Config.defaultParams

end Sys2Proof.Machine
end

