-- ==== Sys2Proof/Machine/Flags.lean ====
section
/-! DEFINITION. The channel flags (spec/10_state.md R29): the logical state they encode, the tests on them, and the
expiry of spec/41_mixer.md R163. -/

namespace Sys2Proof.Machine

/-- R29: the logical state of a channel. -/
inductive LogicalState where
  | free
  | scheduled
  | active
  /-- (1, 1): only between two writes of one command (R29; 90_conflicts.md C6). -/
  | both
  deriving DecidableEq, Repr

/-- R29: the table of `active` and `scheduled`. -/
def Channel.logicalState (c : Channel) : LogicalState :=
  match c.active, c.scheduled with
  | false, false => .free
  | false, true => .scheduled
  | true, false => .active
  | true, true => .both

/-- R29: Free, both flags 0. -/
def Channel.isFree (c : Channel) : Bool := !c.active && !c.scheduled

/-- 00_scope.md R14: busy, not Free. -/
def Channel.isBusy (c : Channel) : Bool := c.active || c.scheduled

/-- 41_mixer.md R163: the expiry test, on the count already incremented; never met where `duration_samples` is 0. -/
def expires (duration played : Word) : Bool := decide (0#32 < duration) && decide (duration ≤ played)

/-- 40_scheduler.md R123: due, `t >= start_time`, an unsigned 64-bit compare. -/
def isDue (t start : Time) : Bool := decide (start ≤ t)

end Sys2Proof.Machine
end

