-- ==== Sys2Proof/Machine/Operands.lean ====
section
/-! DEFINITION. Every operand form of spec/30_encoding.md R85 to R91, the conversions of spec/40_scheduler.md R113 to
R115, and the result words of spec/30_encoding.md R92. -/

namespace Sys2Proof.Machine

/-- 00_scope.md R11: `clamp(x, lo, hi) = min(max(x, lo), hi)`. -/
def clamp (x lo hi : Nat) : Nat := min (max x lo) hi

/-- R87: the unsigned reading of a word, `zext_32`; an unsigned Q16.16 word is this over 2^16. -/
def zext (w : Word) : Nat := w.toNat

/-- R87: the signed reading of a word, `sext_32`; a signed Q16.16 word is this over 2^16. -/
def sext (w : Word) : Int := w.toInt

/-- R89: the numerator over 2^16 of a signed Q16.16 word of seconds, where it is positive. -/
def positivePart (w : Word) : Nat := (sext w).toNat

/-- R112: the test `sext_32(DELAY) > 0` that makes an arm delayed. -/
def isDelayed (delay : Word) : Bool := decide (0 < sext delay)

/-- R113 INC: `floor(zext_32(FREQ) * 2^16 / sr) mod 2^32`. The caller has checked sr ≠ 0. -/
def incOf (freq sr : Word) : Word := BitVec.ofNat 32 (zext freq * 2 ^ 16 / zext sr)

/-- R114 DURS: `floor(sr * sext_32(DUR) / 2^16) mod 2^32` where `sext_32(DUR) > 0`, else 0. -/
def dursOf (dur sr : Word) : Word :=
  if 0 < sext dur then BitVec.ofNat 32 (zext sr * positivePart dur / 2 ^ 16) else 0

/-- R115 START: `(now + floor(sext_32(DELAY) * TPS / 2^16)) mod 2^64`, for a positive DELAY. -/
def startOf (now : Time) (delay : Word) (tps : Nat) : Time :=
  now + BitVec.ofNat 64 (positivePart delay * tps / 2 ^ 16)

/-- R90, 20_memory.md R60: the channel that a CH operand names, none where CH ≥ C. -/
def channelOf (ch : Word) (c : Nat) : Option Nat := if zext ch < c then some (zext ch) else none

/-- R92: NONE, for "none" and "error" alike. -/
def noneWord : Word := 0xFFFFFFFF#32

/-- R92 IDX and COUNT: a channel index or a count as a result word. -/
def countWord (n : Nat) : Word := BitVec.ofNat 32 n

/-- R92 BOOL: 0 or 1. -/
def boolWord (b : Bool) : Word := if b then 1#32 else 0#32

/-- R92 TIME_LO, TIME_HI: bits 31:0, then bits 63:32. -/
def timeWords (t : Time) : List Word := [t.extractLsb' 0 32, t.extractLsb' 32 32]

end Sys2Proof.Machine
end

