-- ==== Sys2Proof/Machine/Ops.lean ====
section
/-! DEFINITION. The named operations over the pool, the global registers and the in-flight command
(spec/10_state.md, spec/20_memory.md), HOST's answers, the write sets of spec/40_scheduler.md, and raising a model fault
(spec/60_exceptions.md R228). -/

namespace Sys2Proof.Machine

/-- R21: C, the number of channels. -/
def State.channels (s : State) : Nat := s.pool.length

/-! ### HOST's answers -/

/-- 10_state.md R36: HOST's answer to `now()` asked in `s`. -/
def State.nowAnswer (s : State) : Time := s.host.clock.headD (Config.freeNow s.host.clockReads)

/-- The clock script after one answer: the last scripted answer holds from then on (30_encoding.md R99 `.now`). -/
def clockAfter : List Time → List Time
  | _ :: t :: ts => t :: ts
  | ts => ts

/-- `s` once HOST has answered `now()`. -/
def State.nowTaken (s : State) : State :=
  { s with host := { s.host with clock := clockAfter s.host.clock, clockReads := s.host.clockReads + 1 } }

/-- 10_state.md R37: HOST's answer to the timer install asked in `s`. -/
def State.installAnswer (s : State) : Bool := s.host.install.headD (Config.freeInstall s.host.installReads)

/-- `s` once HOST has answered the timer install. -/
def State.installTaken (s : State) : State :=
  { s with host := { s.host with install := s.host.install.tail, installReads := s.host.installReads + 1 } }

/-- 60_exceptions.md R230, R234: at this step boundary, with RUNNING = 1, a TICK event comes first. -/
def State.tickAnswer (s : State) : Bool := s.host.ticks.headD (Config.freeTick s.host.tickDraws)

/-- `s` once HOST has said whether a TICK comes first. -/
def State.tickTaken (s : State) : State :=
  { s with host := { s.host with ticks := s.host.ticks.tail, tickDraws := s.host.tickDraws + 1 } }

/-- 20_memory.md R66: which of the `n` writes left in a write set comes next. -/
def State.orderAnswer (s : State) (n : Nat) : Nat := s.host.order.headD (Config.freeOrder s.host.orderDraws) % n

/-- `s` once WRITE_ORDER has given one draw. -/
def State.orderTaken (s : State) : State :=
  { s with host := { s.host with order := s.host.order.tail, orderDraws := s.host.orderDraws + 1 } }

/-! ### Reading the pool -/

/-- 00_scope.md R12: a read of `pool[i].active`; false outside the pool, where no command reads. -/
def State.activeAt (s : State) (i : Nat) : Bool := (s.pool[i]?).elim false Channel.active

/-- 00_scope.md R12: a read of `pool[i].scheduled`. -/
def State.scheduledAt (s : State) (i : Nat) : Bool := (s.pool[i]?).elim false Channel.scheduled

/-- 00_scope.md R12: a read of `pool[i].start_time`. -/
def State.startTimeAt (s : State) (i : Nat) : Time := (s.pool[i]?).elim 0 Channel.startTime

/-! ### Atomic writes -/

/-- One field write on a channel record (20_memory.md R63). -/
def FieldWrite.apply : FieldWrite → Channel → Channel
  | .phase v, c => { c with phase := v }
  | .phaseIncrement v, c => { c with phaseIncrement := v }
  | .amplitude v, c => { c with amplitude := v }
  | .durationSamples v, c => { c with durationSamples := v }
  | .samplesPlayed v, c => { c with samplesPlayed := v }
  | .startTime v, c => { c with startTime := v }
  | .envelope v, c => { c with envelope := v }
  | .active v, c => { c with active := v }
  | .scheduled v, c => { c with scheduled := v }

/-- 42_query.md R192: the list SNAP after `SNAP[n] <- v`. -/
def snapPut (snap : List Word) (n : Nat) (v : Word) : List Word := snap.take n ++ v :: snap.drop (n + 1)

/-- One atomic write (20_memory.md R63, R65). -/
def State.put (s : State) : Write → State
  | .channel i w => { s with pool := s.pool.modify i w.apply }
  | .sampleRate v => { s with sampleRate := v }
  | .running v => { s with running := v }
  | .setupDone v => { s with setupDone := v }
  | .audioStartTime v => { s with audioStartTime := v }
  | .snapEntry n v => { s with snap := snapPut s.snap n v }
  | .snapLen v => { s with snapLen := v, snap := s.snap.take v.toNat }

/-- All the writes of a list, in its order. -/
def State.putAll (s : State) (ws : List Write) : State := ws.foldl State.put s

/-! ### Write sets -/

/-- The field writes of one channel as writes. -/
def onChannel (i : Nat) (ws : List FieldWrite) : List Write := ws.map (Write.channel i)

/-- R111: the record that SETUP stores in every channel. -/
def clearFields : List FieldWrite :=
  [.phase 0, .phaseIncrement 0, .amplitude 0, .durationSamples 0, .samplesPlayed 0, .startTime 0, .envelope 0,
   .active false, .scheduled false]

/-- R116 ARM_DELAYED(i, inc, vol, dur, st). -/
def armDelayed (inc : Word) (vol : Byte) (dur : Word) (st : Time) : List FieldWrite :=
  [.phaseIncrement inc, .amplitude vol, .durationSamples dur, .startTime st, .phase 0, .samplesPlayed 0, .envelope 0,
   .active false, .scheduled true]

/-- R117 ARM_NOW(i, inc, vol, dur): `start_time` is not written. -/
def armNow (inc : Word) (vol : Byte) (dur : Word) : List FieldWrite :=
  [.phaseIncrement inc, .amplitude vol, .durationSamples dur, .phase 0, .samplesPlayed 0, .envelope 0,
   .scheduled false, .active true]

/-- R120, R121: force a channel to Free; no field but the flags is written. -/
def freeFields : List FieldWrite := [.active false, .scheduled false]

/-- R122: disarm a channel. -/
def cancelFields : List FieldWrite := [.scheduled false]

/-- R123: promote a channel. -/
def promoteFields : List FieldWrite :=
  [.phase 0, .samplesPlayed 0, .envelope 0, .active true, .scheduled false]

/-- R111: SETUP's write set, all but RUNNING, which its last write sets (log 12). -/
def setupWrites (c : Nat) (sr : Word) (now : Time) : List Write :=
  [.setupDone true, .sampleRate sr, .audioStartTime now] ++
    (List.range c).flatMap fun i => onChannel i clearFields

/-! ### Ending a command -/

/-- R92, R110: the command delivers its result words and ends. -/
def State.deliver (s : State) (ws : List Word) : State := { s with results := s.results ++ ws, inFlight := none }

/-- R40: the command in flight is now at `f`. -/
def State.goesOn (s : State) (f : InFlight) : State := { s with inFlight := some f }

/-- The in-flight command has nothing to write now and goes on with `w`. -/
def State.worksOn (s : State) (w : Work) : State := s.goesOn { work := w, writes := [], result := [] }

/-- The in-flight command performs `ws` and goes on with `w`. -/
def State.writesThen (s : State) (ws : List Write) (w : Work) : State :=
  s.goesOn { work := w, writes := ws, result := [] }

/-- The in-flight command performs `ws`, then delivers `r` and ends. -/
def State.finishesWith (s : State) (ws : List Write) (r : List Word) : State :=
  s.goesOn { work := .deliver, writes := ws, result := r }

/-- R40, 10_state.md R37: `emit` an event to HOST. -/
def State.emit (s : State) (e : Event) : State := { s with events := s.events ++ [e] }

/-! ### Taking a model fault -/

/-- R228, 00_scope.md R12: a model fault ends the command and records `{code, command word}` in FAULT. The command writes
nothing else and delivers no result; nothing returns from it (FAULT is never cleared). -/
def State.raiseFault (s : State) (code : FaultCode) (word : Word) : State :=
  { s with fault := some { code := code, word := word }, inFlight := none }

end Sys2Proof.Machine
end

