-- ==== Sys2Proof/Machine/Mixer.lean ====
section
/-! DEFINITION. The tick engine, the square-wave synthesizer and the output stage of spec/41_mixer.md. -/

namespace Sys2Proof.Machine

/-- R165: the phase byte, `phase[31:24]`. -/
def phaseByte (phase : Word) : Byte := phase.extractLsb' 24 8

/-- R165 SQUARE(p, a): the amplitude in the high half of the wave, else 0. -/
def square (p a : Byte) : Byte := if p < 128#8 then a else 0#8

/-- R161: the phase after the advance. -/
def Channel.nextPhase (c : Channel) : Word := c.phase + c.phaseIncrement

/-- R162: the sample count after the increment. -/
def Channel.nextPlayed (c : Channel) : Word := c.samplesPlayed + 1#32

/-- R163: the channel is Active and expires on this tick. -/
def Channel.expiresNow (c : Channel) : Bool := c.active && expires c.durationSamples c.nextPlayed

/-- R160 to R163: a channel after a TICK. A channel with `active` = 0 is skipped untouched; `scheduled` is not read. -/
def Channel.ticked (c : Channel) : Channel :=
  if c.active then
    if c.expiresNow then
      { c with phase := c.nextPhase, samplesPlayed := c.nextPlayed, active := false, scheduled := false }
    else { c with phase := c.nextPhase, samplesPlayed := c.nextPlayed }
  else c

/-- R164: the channel contributes to this tick: Active, not retired, amplitude > 0. -/
def Channel.contributes (c : Channel) : Bool := c.active && !c.expiresNow && c.amplitude != 0#8

/-- R164, R165: what a contributing channel adds to `sum`, computed on the phase after the advance. -/
def Channel.contribution (c : Channel) : Byte := square (phaseByte c.nextPhase) c.amplitude

/-- R160: the 32-bit accumulators of one TICK. -/
structure Mix where
  sum : Word
  count : Word
  deriving DecidableEq, Repr

/-- R160: the accumulators before the scan. -/
def Mix.zero : Mix := { sum := 0, count := 0 }

/-- R164: the accumulators after one channel of the scan. -/
def Mix.add (m : Mix) (c : Channel) : Mix :=
  if c.contributes then { sum := m.sum + c.contribution.setWidth 32, count := m.count + 1 } else m

/-- R160, R168: the accumulators after the scan of the whole pool in ascending order. -/
def mixOf (pool : List Channel) : Mix := pool.foldl Mix.add Mix.zero

/-- R166: `clamp((sum div count) div 4, 0, 255)`, and 0 where no channel contributes. -/
def Mix.level (m : Mix) : Byte :=
  if m.count ≠ 0 then BitVec.ofNat 8 (clamp (m.sum.toNat / m.count.toNat / 4) 0 255) else 0

/-- R160: one TICK, one atomic step: advances, retires and mixes every Active channel, writes LEVEL and emits
OutputLevel(LEVEL). -/
def State.ticked (s : State) : State :=
  { s with
    pool := s.pool.map Channel.ticked
    level := (mixOf s.pool).level
    events := s.events ++ [.outputLevel (mixOf s.pool).level] }

/-- R160 TICK: never faults. Whether a TICK event occurs is `step`'s to say (60_exceptions.md R230). -/
def execTick (s : State) : Host.Outcome State Fault Refusal := .next s.ticked

end Sys2Proof.Machine
end

