-- ==== Sys2Proof/WellFormed.lean ====
section
/-! DEFINITION. Well-formedness: of an instruction, of a command word and of a command on the port
(spec/30_encoding.md R80 to R85, R93 to R95). -/

namespace Sys2Proof

/-- R85: every value of every operand is legal, so an instruction is well formed as a command exactly when it has a
command word, which TICK has not (R94). -/
def Instr.wellFormed : Instr → Bool
  | .tick => false
  | .setup _ _ _ | .play _ _ _ _ | .playCh _ _ _ _ _ | .stop _ | .stopAll | .cancel _ | .update
  | .findFree | .isActive _ | .activeCount | .playingCount | .maxChannels | .startTime | .rebuildList => true

/-- R82: the OPC field, bits 7:0. -/
def opcField (cw : Word) : Byte := cw.extractLsb' 0 8

/-- R82: the VOL field, bits 15:8. -/
def volField (cw : Word) : Byte := cw.extractLsb' 8 8

/-- R82: the RSV field, bits 31:16. -/
def rsvField (cw : Word) : BitVec 16 := cw.extractLsb' 16 16

/-- R95: the opcodes that R93 assigns. -/
def assignedOpc (opc : Byte) : Bool :=
  (0x01#8 ≤ opc && opc ≤ 0x07#8) || (0x10#8 ≤ opc && opc ≤ 0x16#8)

/-- R84: the opcodes for which VOL has a meaning, PLAY and PLAY_CH. -/
def opcTakesVol (opc : Byte) : Bool := opc == 0x02#8 || opc == 0x03#8

/-- R84, R95: a legal command word: an assigned OPC, RSV = 0, and VOL = 0 unless the opcode takes VOL. -/
def legalCommandWord (cw : Word) : Bool :=
  assignedOpc (opcField cw) && rsvField cw == 0#16 && (opcTakesVol (opcField cw) || volField cw == 0#8)

/-- R93: the number N of operand words that an opcode takes (0 for an opcode that R93 does not assign, R81). -/
def operandWords (opc : Byte) : Nat :=
  if opc == 0x01#8 || opc == 0x02#8 then 3
  else if opc == 0x03#8 then 4
  else if opc == 0x04#8 || opc == 0x06#8 || opc == 0x11#8 then 1
  else 0

/-- R80, R95: a command on the port is well formed: a legal command word with exactly N operand words. -/
def RawCommand.wellFormed (c : RawCommand) : Bool :=
  legalCommandWord c.word && c.operands.length == operandWords (opcField c.word)

end Sys2Proof
end

