-- ==== Sys2Proof/Decode.lean ====
section
/-! DEFINITION. The decoder of the command port and, after it, the encoder, both written from spec/30_encoding.md
R80 to R95. A command word that is no command is rejected by name; nothing is rejected for its operands (R85). -/

namespace Sys2Proof

/-- R93: the opcode byte of each command. -/
def Opcode.byte : Opcode → Byte
  | .setup => 0x01#8
  | .play => 0x02#8
  | .playCh => 0x03#8
  | .stop => 0x04#8
  | .stopAll => 0x05#8
  | .cancel => 0x06#8
  | .update => 0x07#8
  | .findFree => 0x10#8
  | .isActive => 0x11#8
  | .activeCount => 0x12#8
  | .playingCount => 0x13#8
  | .maxChannels => 0x14#8
  | .startTime => 0x15#8
  | .rebuildList => 0x16#8

/-- R93: every opcode of the port, in the table's order. -/
def Opcode.all : List Opcode :=
  [.setup, .play, .playCh, .stop, .stopAll, .cancel, .update,
   .findFree, .isActive, .activeCount, .playingCount, .maxChannels, .startTime, .rebuildList]

/-- R93: the number N of operand words. -/
def Opcode.operandCount : Opcode → Nat
  | .setup | .play => 3
  | .playCh => 4
  | .stop | .cancel | .isActive => 1
  | .stopAll | .update | .findFree | .activeCount | .playingCount | .maxChannels | .startTime | .rebuildList => 0

/-- R93: the number M of result words. -/
def Opcode.resultCount : Opcode → Nat
  | .play | .playCh | .findFree | .isActive | .activeCount | .playingCount | .maxChannels => 1
  | .startTime => 2
  | .setup | .stop | .stopAll | .cancel | .update | .rebuildList => 0

/-- R84: only PLAY and PLAY_CH take a VOL. -/
def Opcode.takesVol : Opcode → Bool
  | .play | .playCh => true
  | .setup | .stop | .stopAll | .cancel | .update | .findFree | .isActive | .activeCount | .playingCount
  | .maxChannels | .startTime | .rebuildList => false

/-- R93: the command that an OPC byte names, none where R93 assigns it to no command. -/
def opcodeOfByte (b : Byte) : Option Opcode :=
  Opcode.all.find? fun o => o.byte == b

/-- R82: a command word's three fields. -/
def commandFields (cw : Word) : BitVec 16 × Byte × Byte :=
  (cw.extractLsb' 16 16, cw.extractLsb' 8 8, cw.extractLsb' 0 8)

/-- Why a command word is no command (R84, R95). -/
inductive Illegal where
  /-- The OPC is not in R93. -/
  | unassignedOpcode
  /-- RSV is not 0. -/
  | reservedBits
  /-- VOL is not 0 and the command is neither PLAY nor PLAY_CH. -/
  | unusedVol
  deriving DecidableEq, Repr

/-- R82 to R84, R95: the opcode and the VOL of a command word, or why it is illegal. -/
def decodeWord (cw : Word) : Except Illegal (Opcode × Byte) :=
  match commandFields cw with
  | (rsv, vol, opc) =>
    match opcodeOfByte opc with
    | none => .error .unassignedOpcode
    | some o =>
      if rsv ≠ 0#16 then .error .reservedBits
      else if vol ≠ 0#8 ∧ o.takesVol = false then .error .unusedVol
      else .ok (o, vol)

/-- R93: the instruction that an opcode makes of its operand words, in their order, with the words that stand after
them; none where fewer than N words stand there. -/
def takeOperands : Opcode → Byte → List Word → Option (Instr × List Word)
  | .setup, _, sr :: outPin :: enPin :: rest => some (.setup sr outPin enPin, rest)
  | .play, vol, freq :: dur :: delay :: rest => some (.play vol freq dur delay, rest)
  | .playCh, vol, ch :: freq :: dur :: delay :: rest => some (.playCh vol ch freq dur delay, rest)
  | .stop, _, ch :: rest => some (.stop ch, rest)
  | .cancel, _, ch :: rest => some (.cancel ch, rest)
  | .isActive, _, ch :: rest => some (.isActive ch, rest)
  | .stopAll, _, rest => some (.stopAll, rest)
  | .update, _, rest => some (.update, rest)
  | .findFree, _, rest => some (.findFree, rest)
  | .activeCount, _, rest => some (.activeCount, rest)
  | .playingCount, _, rest => some (.playingCount, rest)
  | .maxChannels, _, rest => some (.maxChannels, rest)
  | .startTime, _, rest => some (.startTime, rest)
  | .rebuildList, _, rest => some (.rebuildList, rest)
  | .setup, _, _ | .play, _, _ | .playCh, _, _ | .stop, _, _ | .cancel, _, _ | .isActive, _, _ => none

/-- What the block finds on the command port (R80, R81, R95). -/
inductive Fetched where
  /-- No word: CMD has issued no further command. -/
  | empty
  /-- An illegal command word: rejected alone, `rest` stands after it. -/
  | illegal (why : Illegal) (word : Word) (rest : List Word)
  /-- A legal command word some of whose operand words CMD has not issued yet. -/
  | partialCommand (word : Word)
  /-- A whole command; `rest` stands after it. -/
  | command (i : Instr) (rest : List Word)
  deriving DecidableEq, Repr

/-- R80, R81: reads the next command from the words of the port. -/
def fetchCommand : List Word → Fetched
  | [] => .empty
  | cw :: rest =>
    match decodeWord cw with
    | .error why => .illegal why cw rest
    | .ok (o, vol) =>
      match takeOperands o vol rest with
      | none => .partialCommand cw
      | some (i, rest') => .command i rest'

/-- The decoder: the instruction at the head of a list of port words and the words after it; none where the words
hold no whole command. -/
def decode (ws : List Word) : Option (Instr × List Word) :=
  match fetchCommand ws with
  | .command i rest => some (i, rest)
  | .empty | .illegal _ _ _ | .partialCommand _ => none

/-- R61: the word that four bytes of a byte transport carry, least significant byte first. PRESUMED, log 27. -/
def wordOfBytes (b0 b1 b2 b3 : Byte) : Word := b3 ++ b2 ++ b1 ++ b0

/-- R61: the four bytes of a word, least significant first. PRESUMED, log 27. -/
def bytesOfWord (w : Word) : List Byte :=
  [w.extractLsb' 0 8, w.extractLsb' 8 8, w.extractLsb' 16 8, w.extractLsb' 24 8]

/-- R61: the words that a byte transport carries, whole words only. -/
def wordsOfBytes : List Byte → List Word
  | b0 :: b1 :: b2 :: b3 :: rest => wordOfBytes b0 b1 b2 b3 :: wordsOfBytes rest
  | _ => []

/-- The bytes of an instruction whose bits are `w`, bit 0 the least significant bit of the first word, as many words as
the longest command has (R93: 5); bits from `nbits` up are 0. -/
def tableBytes (nbits w : Nat) : List Byte :=
  (List.range 20).map fun k => BitVec.ofNat 8 (w % 2 ^ nbits / 2 ^ (8 * k))

/-- The instruction the decoder reads from the bits `w` of an opcode-table row. -/
def decodeTableWord (nbits w : Nat) : Option Instr :=
  (decode (wordsOfBytes (tableBytes nbits w))).map Prod.fst

/-- R82: the command word of an opcode and a VOL, RSV = 0. -/
def commandWord (o : Opcode) (vol : Byte) : Word := 0#16 ++ vol ++ o.byte

/-- The encoder: the words of an instruction (R82, R93). TICK has none (R94). -/
def encode : Instr → List Word
  | .setup sr outPin enPin => [commandWord .setup 0, sr, outPin, enPin]
  | .play vol freq dur delay => [commandWord .play vol, freq, dur, delay]
  | .playCh vol ch freq dur delay => [commandWord .playCh vol, ch, freq, dur, delay]
  | .stop ch => [commandWord .stop 0, ch]
  | .stopAll => [commandWord .stopAll 0]
  | .cancel ch => [commandWord .cancel 0, ch]
  | .update => [commandWord .update 0]
  | .findFree => [commandWord .findFree 0]
  | .isActive ch => [commandWord .isActive 0, ch]
  | .activeCount => [commandWord .activeCount 0]
  | .playingCount => [commandWord .playingCount 0]
  | .maxChannels => [commandWord .maxChannels 0]
  | .startTime => [commandWord .startTime 0]
  | .rebuildList => [commandWord .rebuildList 0]
  | .tick => []

/-- The opcode of a command; TICK has none (R94). -/
def Instr.opcode? : Instr → Option Opcode
  | .setup _ _ _ => some .setup
  | .play _ _ _ _ => some .play
  | .playCh _ _ _ _ _ => some .playCh
  | .stop _ => some .stop
  | .stopAll => some .stopAll
  | .cancel _ => some .cancel
  | .update => some .update
  | .findFree => some .findFree
  | .isActive _ => some .isActive
  | .activeCount => some .activeCount
  | .playingCount => some .playingCount
  | .maxChannels => some .maxChannels
  | .startTime => some .startTime
  | .rebuildList => some .rebuildList
  | .tick => none

end Sys2Proof
end

