-- ==== Sys2Proof/Machine/Engine.lean ====
section
/-! DEFINITION. How a command runs once it has started (spec/20_memory.md R65 to R67; spec/40_scheduler.md R110,
R112): one definition for each kind of read, one for the writes of a write set, and the two granularities of
COMMAND_ATOMICITY. -/

namespace Sys2Proof.Machine

/-- R112 CONFIGURE(i, FREQ, VOL, DUR, DELAY), its read of SAMPLE_RATE: computes the increment and the duration, and goes
on to read `now()` where DELAY > 0, else sets up the write set ARM_NOW (R117) and the result i. -/
def State.configure (s : State) (i : Nat) (vol : Byte) (freq dur delay : Word) : State :=
  if isDelayed delay then
    s.worksOn (.configureNow i vol (incOf freq s.sampleRate) (dursOf dur s.sampleRate) delay)
  else
    s.finishesWith (onChannel i (armNow (incOf freq s.sampleRate) vol (dursOf dur s.sampleRate))) [countWord i]

/-- R112 CONFIGURE, its read of `now()`: sets up the write set ARM_DELAYED (R116) and the result i. -/
def State.configureNow (s : State) (i : Nat) (vol : Byte) (inc dur delay : Word) : State :=
  s.nowTaken.finishesWith (onChannel i (armDelayed inc vol dur (startOf s.nowAnswer delay s.params.tps))) [countWord i]

/-- What a scan does at the end of the pool: PLAY and FIND_FREE found no Free channel (R118, R191), a count is the
result (R193, R194), REBUILD_LIST writes SNAP_LEN (R192). -/
def State.scanEnd (s : State) : ScanGoal → State
  | .allocate _ _ _ _ => s.finishesWith [] [noneWord]
  | .findFree => s.finishesWith [] [noneWord]
  | .countBusy n => s.finishesWith [] [n]
  | .countActive n => s.finishesWith [] [n]
  | .rebuild n => s.finishesWith [.snapLen (countWord n)] []

/-- What a scan does with a busy channel `j`. -/
def State.scanBusy (s : State) (j : Nat) : ScanGoal → State
  | .allocate vol freq dur delay => s.worksOn (.scan (j + 1) (.allocate vol freq dur delay))
  | .findFree => s.worksOn (.scan (j + 1) .findFree)
  | .countBusy n => s.worksOn (.scan (j + 1) (.countBusy (n + 1)))
  | .countActive n => s.worksOn (.scan (j + 1) (.countActive (n + 1)))
  | .rebuild n => s.writesThen [.snapEntry n (countWord j)] (.scan (j + 1) (.rebuild (n + 1)))

/-- What a scan does with a channel `j` both of whose flags it read as 0 (for PLAYING_COUNT: whose `active` it read as
0). -/
def State.scanFree (s : State) (j : Nat) : ScanGoal → State
  | .allocate vol freq dur delay => s.worksOn (.configure j vol freq dur delay)
  | .findFree => s.finishesWith [] [countWord j]
  | .countBusy n => s.worksOn (.scan (j + 1) (.countBusy n))
  | .countActive n => s.worksOn (.scan (j + 1) (.countActive n))
  | .rebuild n => s.worksOn (.scan (j + 1) (.rebuild n))

/-- Which scans read `scheduled` too: all but PLAYING_COUNT's (R194). -/
def ScanGoal.readsScheduled : ScanGoal → Bool
  | .countActive _ => false
  | .allocate _ _ _ _ | .findFree | .countBusy _ | .rebuild _ => true

/-- One step of a scan: reads `active` of channel `j` (R118, R190: one read of each flag per step). Where it reads 1 the
channel is busy whatever `scheduled` holds, which is then not read (log 11). -/
def State.scanStep (s : State) (j : Nat) (g : ScanGoal) : State :=
  if j < s.channels then
    if s.activeAt j then s.scanBusy j g
    else if g.readsScheduled then s.worksOn (.scanScheduled j g)
    else s.scanFree j g
  else s.scanEnd g

/-- The scan's second read of channel `j`, its `scheduled`. -/
def State.scanScheduledStep (s : State) (j : Nat) (g : ScanGoal) : State :=
  if s.scheduledAt j then s.scanBusy j g else s.scanFree j g

/-- R111: SETUP reads SETUP_DONE: F_REPEATED_SETUP where it is 1 (60_exceptions.md R225). -/
def State.setupCheckStep (s : State) (sr : Word) : State :=
  if s.setupDone then s.raiseFault .repeatedSetup (commandWord .setup 0) else s.worksOn (.setupNow sr)

/-- R118: PLAY reads SAMPLE_RATE: F_UNCONFIGURED where it is 0 (60_exceptions.md R224), else the scan for the lowest Free
channel. -/
def State.playCheckStep (s : State) (vol : Byte) (freq dur delay : Word) : State :=
  if s.sampleRate = 0 then s.raiseFault .unconfigured (commandWord .play vol)
  else s.worksOn (.scan 0 (.allocate vol freq dur delay))

/-- R119: PLAY_CH reads SAMPLE_RATE: F_UNCONFIGURED where it is 0, before the range test (60_exceptions.md R224, R227);
NONE where CH ≥ C; else the named channel is configured. -/
def State.playChCheckStep (s : State) (vol : Byte) (ch freq dur delay : Word) : State :=
  if s.sampleRate = 0 then s.raiseFault .unconfigured (commandWord .playCh vol)
  else match channelOf ch s.channels with
    | none => s.finishesWith [] [noneWord]
    | some i => s.worksOn (.configure i vol freq dur delay)

/-- R111: SETUP asks INSTALL_OK, forced false by SR = 0; on failure it emits Diag(SETUP_FAILED). Its last write is
RUNNING. -/
def State.setupInstallStep (s : State) (sr : Word) : State :=
  if s.installAnswer && sr != 0#32 then s.installTaken.finishesWith [.running true] []
  else (s.installTaken.emit .diagSetupFailed).finishesWith [.running false] []

/-- R121: STOP_ALL frees channel `i` and goes on with the next, or ends. -/
def State.freeStep (s : State) (i : Nat) : State :=
  if i < s.channels then s.writesThen (onChannel i freeFields) (.freeFrom (i + 1)) else s.finishesWith [] []

/-- R122: CANCEL reads `scheduled` of channel `i`. -/
def State.cancelStep (s : State) (i : Nat) : State :=
  if s.scheduledAt i then s.finishesWith (onChannel i cancelFields) [] else s.finishesWith [] []

/-- R123: UPDATE reads `scheduled` of channel `i`, or ends. -/
def State.updateScanStep (s : State) (t : Time) (i : Nat) : State :=
  if i < s.channels then
    if s.scheduledAt i then s.worksOn (.updateStart t i) else s.worksOn (.updateScan t (i + 1))
  else s.finishesWith [] []

/-- R123: UPDATE reads `start_time` of channel `i`, and promotes the channel where it is due. -/
def State.updateStartStep (s : State) (t : Time) (i : Nat) : State :=
  if isDue t (s.startTimeAt i) then s.writesThen (onChannel i promoteFields) (.updateScan t (i + 1))
  else s.worksOn (.updateScan t (i + 1))

/-- One step of the in-flight command when it has no write pending: its next read, or its end. -/
def State.workStep (s : State) (f : InFlight) : State :=
  match f.work with
  | .setupCheck sr => s.setupCheckStep sr
  | .playCheck vol freq dur delay => s.playCheckStep vol freq dur delay
  | .playChCheck vol ch freq dur delay => s.playChCheckStep vol ch freq dur delay
  | .setupNow sr => s.nowTaken.writesThen (setupWrites s.channels sr s.nowAnswer) (.setupInstall sr)
  | .setupInstall sr => s.setupInstallStep sr
  | .scan j g => s.scanStep j g
  | .scanScheduled j g => s.scanScheduledStep j g
  | .configure i vol freq dur delay => s.configure i vol freq dur delay
  | .configureNow i vol inc dur delay => s.configureNow i vol inc dur delay
  | .freeFrom i => s.freeStep i
  | .cancelRead i => s.cancelStep i
  | .updateNow => s.nowTaken.worksOn (.updateScan s.nowAnswer 0)
  | .updateScan t i => s.updateScanStep t i
  | .updateStart t i => s.updateStartStep t i
  | .isActiveRead i => s.finishesWith [] [boolWord (s.activeAt i)]
  | .startTimeRead => s.finishesWith [] (timeWords s.audioStartTime)
  | .deliver => s.deliver f.result

/-- R66: one write of the pending write set `w :: ws`, the one that WRITE_ORDER draws. -/
def State.writeStep (s : State) (f : InFlight) (w : Write) (ws : List Write) : State :=
  let k := s.orderAnswer (ws.length + 1)
  (s.orderTaken.put ((w :: ws).getD k w)).goesOn { f with writes := (w :: ws).eraseIdx k }

/-- R65: one step of the in-flight command `f` under `per_field`: one write while writes are pending, else one read, or
the end of the command. -/
def State.advance (s : State) (f : InFlight) : State :=
  match f.writes with
  | [] => s.workStep f
  | w :: ws => s.writeStep f w ws

/-- R67: the whole of a write set at once, as no TICK can come between its writes. Its writes go to different places, so
their order is without effect. -/
def State.flush (s : State) (f : InFlight) : State := (s.putAll f.writes).goesOn { f with writes := [] }

/-- R67: up to `n` steps of the command in flight with nothing between them, each write set taken whole. -/
def State.finish : Nat → State → State
  | 0, s => s
  | n + 1, s =>
    match s.inFlight with
    | none => s
    | some f => (match f.writes with
        | [] => s.workStep f
        | _ :: _ => s.flush f).finish n

/-- More steps than any command takes in a pool of `c` channels: at most three a channel, and four besides (log 28). -/
def finishFuel (c : Nat) : Nat := 4 * c + 8

/-- R110: a command whose first step is `f` starts: under `per_field` it is in flight and `step` goes on with it, under
`per_command` it runs to its end. -/
def State.launch (s : State) (f : InFlight) : State :=
  match s.params.atomicity with
  | .perField => s.goesOn f
  | .perCommand => (s.goesOn f).finish (finishFuel s.channels)

/-- A command that starts with a read. -/
def State.startWork (s : State) (w : Work) : State := s.launch { work := w, writes := [], result := [] }

/-- A command that reads nothing: it performs `ws`, delivers `r` and ends. -/
def State.startWrites (s : State) (ws : List Write) (r : List Word) : State :=
  s.launch { work := .deliver, writes := ws, result := r }

end Sys2Proof.Machine
end

