-- ==== Sys2Proof/Machine/Query.lean ====
section
/-! DEFINITION. The query and snapshot commands of spec/42_query.md: FIND_FREE, REBUILD_LIST, ACTIVE_COUNT,
PLAYING_COUNT, IS_ACTIVE, MAX_CHANNELS, START_TIME. None faults (R190). -/

namespace Sys2Proof.Machine

/-- R191 FIND_FREE: the lowest Free channel, or NONE. -/
def execFindFree (s : State) : Host.Outcome State Fault Refusal :=
  .next (s.startWork (.scan 0 .findFree))

/-- R195 IS_ACTIVE: the `active` bit of channel CH, 0 where CH ≥ C. -/
def execIsActive (ch : Word) (s : State) : Host.Outcome State Fault Refusal :=
  match channelOf ch s.channels with
  | none => .next (s.startWrites [] [boolWord false])
  | some i => .next (s.startWork (.isActiveRead i))

/-- R193 ACTIVE_COUNT: the number of busy channels. -/
def execActiveCount (s : State) : Host.Outcome State Fault Refusal :=
  .next (s.startWork (.scan 0 (.countBusy 0)))

/-- R194 PLAYING_COUNT: the number of channels with `active`. -/
def execPlayingCount (s : State) : Host.Outcome State Fault Refusal :=
  .next (s.startWork (.scan 0 (.countActive 0)))

/-- R196 MAX_CHANNELS: C. -/
def execMaxChannels (s : State) : Host.Outcome State Fault Refusal :=
  .next (s.startWrites [] [countWord s.channels])

/-- R197 START_TIME: AUDIO_START_TIME, low word first. -/
def execStartTime (s : State) : Host.Outcome State Fault Refusal :=
  .next (s.startWork .startTimeRead)

/-- R192 REBUILD_LIST: rebuilds SNAP and SNAP_LEN in ascending order. -/
def execRebuildList (s : State) : Host.Outcome State Fault Refusal :=
  .next (s.startWork (.scan 0 (.rebuild 0)))

end Sys2Proof.Machine
end

