-- ==== Sys2Proof/Machine/Scheduler.lean ====
section
/-! DEFINITION. The scheduler commands of spec/40_scheduler.md: SETUP, PLAY, PLAY_CH, STOP, STOP_ALL, CANCEL, UPDATE.
Each meaning starts its command; Engine.lean holds the steps that each command then takes. -/

namespace Sys2Proof.Machine

/-- R111 SETUP: first its check of SETUP_DONE. OUTPIN and ENPIN go to the output device, outside the block, and are read
by nothing (30_encoding.md R91). -/
def execSetup (sr _outPin _enPin : Word) (s : State) : Host.Outcome State Fault Refusal :=
  .next (s.startWork (.setupCheck sr))

/-- R118 PLAY: first its check of SAMPLE_RATE, then the scan for the lowest Free channel. -/
def execPlay (vol : Byte) (freq dur delay : Word) (s : State) : Host.Outcome State Fault Refusal :=
  .next (s.startWork (.playCheck vol freq dur delay))

/-- R119 PLAY_CH: first its check of SAMPLE_RATE, then the range test; the named channel is configured whatever it
holds. -/
def execPlayCh (vol : Byte) (ch freq dur delay : Word) (s : State) : Host.Outcome State Fault Refusal :=
  .next (s.startWork (.playChCheck vol ch freq dur delay))

/-- R120 STOP: forces channel CH to Free; a no-op where CH ≥ C. -/
def execStop (ch : Word) (s : State) : Host.Outcome State Fault Refusal :=
  match channelOf ch s.channels with
  | none => .next (s.startWrites [] [])
  | some i => .next (s.startWrites (onChannel i freeFields) [])

/-- R121 STOP_ALL: forces every channel to Free, one after the other. -/
def execStopAll (s : State) : Host.Outcome State Fault Refusal :=
  .next (s.startWork (.freeFrom 0))

/-- R122 CANCEL: disarms channel CH where it is Scheduled; a no-op where CH ≥ C. -/
def execCancel (ch : Word) (s : State) : Host.Outcome State Fault Refusal :=
  match channelOf ch s.channels with
  | none => .next (s.startWrites [] [])
  | some i => .next (s.startWork (.cancelRead i))

/-- R123 UPDATE: reads `now()` once, then promotes every due Scheduled channel in ascending order. -/
def execUpdate (s : State) : Host.Outcome State Fault Refusal :=
  .next (s.startWork .updateNow)

end Sys2Proof.Machine
end

