-- ==== Sys2Proof/Machine/Dispatch.lean ====
section
/-! DEFINITION. One arm per constructor of Instr, in the order of spec/opcode_table.json. -/

namespace Sys2Proof.Machine

def exec (i : Instr) (s : State) : Host.Outcome State Fault Refusal :=
  match i with
  | .setup sr outPin enPin => Sys2Proof.Machine.execSetup sr outPin enPin s
  | .play vol freq dur delay => Sys2Proof.Machine.execPlay vol freq dur delay s
  | .playCh vol ch freq dur delay => Sys2Proof.Machine.execPlayCh vol ch freq dur delay s
  | .stop ch => Sys2Proof.Machine.execStop ch s
  | .stopAll => Sys2Proof.Machine.execStopAll s
  | .cancel ch => Sys2Proof.Machine.execCancel ch s
  | .update => Sys2Proof.Machine.execUpdate s
  | .findFree => Sys2Proof.Machine.execFindFree s
  | .isActive ch => Sys2Proof.Machine.execIsActive ch s
  | .activeCount => Sys2Proof.Machine.execActiveCount s
  | .playingCount => Sys2Proof.Machine.execPlayingCount s
  | .maxChannels => Sys2Proof.Machine.execMaxChannels s
  | .startTime => Sys2Proof.Machine.execStartTime s
  | .rebuildList => Sys2Proof.Machine.execRebuildList s
  | .tick => Sys2Proof.Machine.execTick s

end Sys2Proof.Machine
end

