-- ==== Sys2Proof/Machine/Control.lean ====
section
/-! DEFINITION. Which agent moves next, and how CMD takes a command from the port (spec/30_encoding.md R80, R81, R95;
spec/60_exceptions.md R228 to R234). `step` only calls this file. -/

namespace Sys2Proof.Machine

/-- The words of the port. -/
def State.withPort (s : State) (ws : List Word) : State := { s with host := { s.host with port := ws } }

/-- R80, R81, R95: CMD's next command starts. An illegal command word is rejected alone, with no operand word consumed;
a command some of whose words CMD has not issued yet, and an empty port, leave the block waiting (log 4). -/
def State.startCommand (s : State) : Host.Outcome State Fault Refusal :=
  match fetchCommand s.host.port with
  | .empty => .next s
  | .partialCommand _ => .next s
  | .illegal _ word rest => .next ((s.withPort rest).raiseFault .illegalCommand word)
  | .command i rest => exec i (s.withPort rest)

/-- One step of CMD: the in-flight command goes on, or, as none is in flight, the next one starts (R67, R80). -/
def State.cmdStep (s : State) : Host.Outcome State Fault Refusal :=
  match s.inFlight with
  | some f => .next (s.advance f)
  | none => s.startCommand

/-- R230, R231, R234: one step of the block: while RUNNING = 1 HOST says whether a TICK event comes first at this step
boundary; with RUNNING = 0 no TICK occurs. -/
def State.agentStep (s : State) : Host.Outcome State Fault Refusal :=
  if s.running then
    if s.tickAnswer then exec .tick s.tickTaken else s.tickTaken.cmdStep
  else s.cmdStep

/-- R228: once FAULT is not empty neither CMD nor TICK takes a step. -/
def State.blockStep (s : State) : Host.Outcome State Fault Refusal :=
  match s.fault with
  | some r => .fault (.recorded r.code)
  | none => s.agentStep

/-- R81: how many words of the port the command word `cw` takes, itself among them; 1 where it is illegal. -/
def commandLength (cw : Word) : Nat :=
  match decodeWord cw with
  | .error _ => 1
  | .ok (o, _) => 1 + o.operandCount

/-- The words of one command out of a list of words that begins with it. -/
def firstCommand : List Word → List Word
  | [] => []
  | cw :: ws => cw :: ws.take (commandLength cw - 1)

/-- `s` with the words `ws` next on the port, no command in flight, no fault recorded, and no TICK event at the next
step boundary: CMD takes them at the very next step (log 5). -/
def State.readyFor (s : State) (ws : List Word) : State :=
  { s with
    fault := none
    inFlight := none
    host := { s.host with
      port := ws ++ s.host.port
      ticks := if s.running then false :: s.host.ticks else s.host.ticks } }

end Sys2Proof.Machine
end

