-- ==== Sys2Proof/Machine/Step.lean ====
section
/-! DEFINITION. One step of MIXER, and the placing of one command where the next step takes it. -/

namespace Sys2Proof.Machine

/-- One step: one TICK, one read or write of the command in flight, or the start of a command (spec/20_memory.md R64 to
R67; spec/60_exceptions.md R228 to R234). -/
def step (s : State) : Host.Outcome State Fault Refusal := s.blockStep

/-- `s` with the command whose bits are `w` (bit 0 the least significant of its command word, bits from `nbits` up 0)
next on the command port, so that the next step takes and runs exactly it (log 5). -/
def State.withFetchWord (s : State) (nbits w : Nat) : State :=
  s.readyFor (firstCommand (wordsOfBytes (tableBytes nbits w)))

end Sys2Proof.Machine
end

