-- ==== Sys2Proof/Machine/Harness.lean ====
section
/-! DEFINITION. The harness directives of spec/30_encoding.md R99: what HOST does between commands. They are no commands
and encode to no word. -/

namespace Sys2Proof.Machine

/-- R99: the directives. -/
inductive Directive where
  /-- `.now t`: `now()` answers t from this point on. -/
  | now (t : Time)
  /-- `.tick n`: n TICK events occur at this point. -/
  | tick (n : Nat)
  /-- `.install ok|fail`: HOST's next INSTALL_OK answer. -/
  | install (ok : Bool)
  deriving DecidableEq, Repr

/-- R99: `n` TICKs one after the other, with nothing between them. -/
def State.tickTimes : Nat → State → State
  | 0, s => s
  | n + 1, s => s.ticked.tickTimes n

/-- R99: a directive. While RUNNING = 0 HOST delivers no TICK (60_exceptions.md R230, R241), and after a fault no TICK takes
a step (R228). -/
def State.perform (s : State) : Directive → State
  | .now t => { s with host := { s.host with clock := [t] } }
  | .tick n => if s.running && s.fault.isNone then s.tickTimes n else s
  | .install ok => { s with host := { s.host with install := ok :: s.host.install.tail } }

end Sys2Proof.Machine
end

