-- ==== Sys2Proof/Safety.lean ====
section
/-! DEFINITION. The terms that claims are made in: the end of a run, HOST's duties, the invariants of the block, and a
command run to its end with no TICK between its steps. -/

namespace Sys2Proof.Machine

/-- 70_reset_and_hazards.md R262, 60_exceptions.md R228: a run is at its end: CMD has issued nothing more, no command is
in flight, no fault is recorded. -/
def State.atEnd (s : State) : Bool := s.host.port.isEmpty && s.inFlight.isNone && s.fault.isNone

/-- No command is in flight and none is stopped by a fault: CMD may start its next command (R67, R80). -/
def State.ready (s : State) : Bool := s.inFlight.isNone && s.fault.isNone

/-- HOST's `k`-th answer to `now()` from here on, if nothing but the block's own questions is asked of it: the script's
entries in turn, the last of them from then on, and free values where there is no script (10_state.md R36; log 3). -/
def HostInputs.nowAt (h : HostInputs) (k : Nat) : Time :=
  match h.clock with
  | [] => Config.freeNow (h.clockReads + k)
  | t :: ts => (t :: ts).getD k (ts.getLastD t)

/-- 60_exceptions.md R241: HOST's duty that `now()` never goes back across the run, whether a script or free values answer
it. A claim that needs it takes it as a premise (log 20). -/
def HostInputs.clockOrdered (h : HostInputs) : Prop := ∀ j k : Nat, j ≤ k → h.nowAt j ≤ h.nowAt k

/-- 00_scope.md R8: the pool sizes that are legal. -/
def State.legalSize (s : State) : Prop := 1 ≤ s.channels ∧ s.channels ≤ Config.maxChannels

/-- 10_state.md R42: the number of the field that a field write names, in the register summary's order. -/
def FieldWrite.field : FieldWrite → Nat
  | .phase _ => 0
  | .phaseIncrement _ => 1
  | .amplitude _ => 2
  | .durationSamples _ => 3
  | .samplesPlayed _ => 4
  | .startTime _ => 5
  | .envelope _ => 6
  | .active _ => 7
  | .scheduled _ => 8

/-- The piece of state that a write names: field k of channel i is (i + 1, k), a global register is (0, its number in
10_state.md R42), and entry n of SNAP is (0, 8 + n). -/
def Write.place : Write → Nat × Nat
  | .channel i w => (i + 1, w.field)
  | .sampleRate _ => (0, 0)
  | .running _ => (0, 1)
  | .setupDone _ => (0, 2)
  | .audioStartTime _ => (0, 3)
  | .snapLen _ => (0, 5)
  | .snapEntry n _ => (0, 8 + n)

/-- The writes pending in `s`. -/
def State.pending (s : State) : List Write := s.inFlight.elim [] InFlight.writes

/-- `s` with its pending writes done: what the write set under way leaves where nothing else writes. -/
def State.settled (s : State) : State := s.putAll s.pending

/-- A write set names no piece of state twice, so its order is without effect on what it leaves. -/
def State.distinctWrites (s : State) : Prop := (s.pending.map Write.place).Nodup

/-- 10_state.md R29: `active` and `scheduled` are not both 1. -/
def Channel.exclusive (c : Channel) : Prop := ¬ (c.active = true ∧ c.scheduled = true)

/-- 10_state.md R29, 90_conflicts.md C6: the source's invariant as it holds at every step: once the write set under way
is done, no channel has both flags set; between commands that is the pool itself. -/
def State.flagsInv (s : State) : Prop := s.distinctWrites ∧ ∀ c ∈ s.settled.pool, c.exclusive

/-- The write is one of SETUP's to a global register. -/
def Write.ofSetup : Write → Bool
  | .sampleRate _ | .running _ | .setupDone _ | .audioStartTime _ => true
  | .channel _ _ | .snapEntry _ _ | .snapLen _ => false

/-- RUNNING = 1 means a SETUP has been made whose rate is not 0 (10_state.md R31, R32, R37). -/
def State.runningConfigured (s : State) : Prop :=
  s.running = true → s.setupDone = true ∧ s.sampleRate ≠ 0

/-- Where a SETUP in flight stands: RUNNING stays 0 until its last write, before which SETUP_DONE and SAMPLE_RATE have
been written. -/
def State.setupStage (s : State) (f : InFlight) : Prop :=
  match f.work with
  | .setupNow _ => s.running = false ∧ f.writes = []
  | .setupInstall sr =>
    s.running = false ∧ (∀ w ∈ f.writes, ∀ b, w ≠ .running b) ∧ s.settled.setupDone = true ∧ s.settled.sampleRate = sr
  | _ =>
    (∀ w ∈ f.writes, w.ofSetup = false) ∨
      ∃ b, f.writes = [.running b] ∧ s.running = false ∧ (b = true → s.setupDone = true ∧ s.sampleRate ≠ 0)

/-- 10_state.md R32: what every step keeps about SETUP and RUNNING. -/
def State.setupInv (s : State) : Prop :=
  s.distinctWrites ∧ s.runningConfigured ∧ ∀ f, s.inFlight = some f → s.setupStage f

/-- 41_mixer.md R167: LEVEL is never above 63, in a pool of legal size. -/
def State.levelInv (s : State) : Prop := s.legalSize ∧ s.level ≤ 63#8

/-- 20_memory.md R65: up to `n` steps of the command in flight under `per_field` with no TICK between them. -/
def State.cmdRun : Nat → State → State
  | 0, s => s
  | n + 1, s =>
    match s.inFlight with
    | none => s
    | some f => (s.advance f).cmdRun n

/-- `s` under another COMMAND_ATOMICITY. -/
def State.withAtomicity (s : State) (a : Atomicity) : State := { s with params := { s.params with atomicity := a } }

/-- `s` without what only says how it came about: the WRITE_ORDER draws and COMMAND_ATOMICITY. -/
def State.visible (s : State) : State :=
  { s with
    params := { s.params with atomicity := .perField }
    host := { s.host with order := [], orderDraws := 0 } }

/-- With no TICK between its steps, the command in flight in `s` ends in `t`, whatever WRITE_ORDER draws (20_memory.md
R66, R67). -/
def State.runsTo (s t : State) : Prop := ∃ n, (s.cmdRun n).inFlight = none ∧ (s.cmdRun n).visible = t.visible

/-- The exec outcome `o` of a command taken in `s` whose whole effect is `t` (40_scheduler.md R110). Under `per_field` the
command is in flight at `f` and has changed nothing else yet, and, with no TICK between its steps, ends in `t`; under
`per_command` it has ended in `t`. Nothing is then in flight. -/
def startsOrEnds (s : State) (o : Host.Outcome State Fault Refusal) (f : InFlight) (t : State) : Prop :=
  (s.params.atomicity = .perField →
    o = .next { s with inFlight := some f } ∧
      State.runsTo { s with inFlight := some f } { t with inFlight := none }) ∧
  (s.params.atomicity = .perCommand → o = .next { t with inFlight := none })

/-- A write set on one channel is done: channel `i`, if it exists, is now what `g` makes of it. -/
def State.channelBecomes (s : State) (i : Nat) (g : Channel → Channel) : State := { s with pool := s.pool.modify i g }

/-- The results of `s` and, after them, `ws`. -/
def State.answered (s : State) (ws : List Word) : State := { s with results := s.results ++ ws }

/-- `s` once CONFIGURE has armed channel `i` and the command has delivered `i` (40_scheduler.md R112, R116, R117): where
DELAY > 0 Scheduled, with one answer of HOST to `now()` taken, else Active at once with `start_time` kept. -/
def State.toneArmed (s : State) (i : Nat) (vol : Byte) (freq dur delay : Word) : State :=
  if 0 < delay.toInt then
    (s.nowTaken.channelBecomes i fun c =>
      { c with
        phaseIncrement := incOf freq s.sampleRate, amplitude := vol, durationSamples := dursOf dur s.sampleRate
        startTime := startOf s.nowAnswer delay s.params.tps, phase := 0, samplesPlayed := 0, envelope := 0
        active := false, scheduled := true }).answered [BitVec.ofNat 32 i]
  else
    (s.channelBecomes i fun c =>
      { c with
        phaseIncrement := incOf freq s.sampleRate, amplitude := vol, durationSamples := dursOf dur s.sampleRate
        phase := 0, samplesPlayed := 0, envelope := 0, active := true, scheduled := false }).answered [BitVec.ofNat 32 i]

/-- The work and the writes of a query in flight that is not REBUILD_LIST: it has none to write (42_query.md R190). -/
def InFlight.ofQuery (f : InFlight) : Prop :=
  f.writes = [] ∧
  match f.work with
  | .scan _ g | .scanScheduled _ g =>
    match g with
    | .findFree | .countBusy _ | .countActive _ => True
    | .allocate _ _ _ _ | .rebuild _ => False
  | .isActiveRead _ | .startTimeRead | .deliver => True
  | _ => False

/-- REBUILD_LIST in flight: its scan, or its end, with nothing to write but SNAP and SNAP_LEN and no result (42_query.md
R190, R192). -/
def InFlight.ofRebuild (f : InFlight) : Prop :=
  f.result = [] ∧
  (∀ w ∈ f.writes, (∃ n v, w = .snapEntry n v) ∨ ∃ v, w = .snapLen v) ∧
  ((∃ j n, f.work = .scan j (.rebuild n)) ∨ (∃ j n, f.work = .scanScheduled j (.rebuild n)) ∨ f.work = .deliver)

/-- PLAY or PLAY_CH in flight, up to the write set of its arm (40_scheduler.md R112, R118, R119). -/
def Work.ofArm : Work → Prop
  | .playCheck _ _ _ _ | .playChCheck _ _ _ _ _ | .configure _ _ _ _ _ | .configureNow _ _ _ _ _ => True
  | .scan _ g | .scanScheduled _ g => ∃ vol freq dur delay, g = .allocate vol freq dur delay
  | _ => False

/-- UPDATE in flight, up to its end (40_scheduler.md R123). -/
def Work.ofUpdate : Work → Prop
  | .updateNow | .updateScan _ _ | .updateStart _ _ => True
  | _ => False

/-- The event is an OutputLevel (10_state.md R34). -/
def Event.isOutputLevel : Event → Bool
  | .outputLevel _ => true
  | .diagSetupFailed => false

end Sys2Proof.Machine
end

