-- ==== Sys2Proof/Certificates/Slice0/Obligations.lean ====
section
/-! DEFINITION. The statements for the provers. Each docstring names what of spec/ the statement formalises. -/

open Sys2Proof Sys2Proof.Machine

/-! ### Decoding and encoding (spec/30_encoding.md) -/

/-- R82, R93: the decoder reads back every command the encoder writes, whatever words follow it. -/
def Obligations.DecodeReadsBackEncode : Prop :=
  ∀ (i : Instr) (rest : List Word), i.wellFormed = true → decode (encode i ++ rest) = some (i, rest)

/-- R81, R82, R93: whatever the decoder accepts is the encoding of the command it reads, followed by the words it leaves:
each run of words has one meaning, and TICK is never decoded (R94). -/
def Obligations.EncodeReadsBackDecode : Prop :=
  ∀ (ws : List Word) (i : Instr) (rest : List Word),
    decode ws = some (i, rest) → i.wellFormed = true ∧ ws = encode i ++ rest

/-- R80, R84, R85, R93, R95: the decoder accepts exactly the well-formed commands, whatever the operands' values. -/
def Obligations.DecoderAcceptsWellFormed : Prop :=
  ∀ c : RawCommand, c.wellFormed = true ↔ ∃ i, decode (c.word :: c.operands) = some (i, [])

/-- R81, R84, R95: a command word is rejected as illegal exactly where its fields break a rule of R84 or R95, whatever
words follow it, and then it is rejected alone. -/
def Obligations.IllegalWordsRejectedAlone : Prop :=
  ∀ (cw : Word) (rest : List Word),
    legalCommandWord cw = false ↔ ∃ why, fetchCommand (cw :: rest) = .illegal why cw rest

/-- R100 (words of its table): sample words decode to the commands the table names. -/
def Obligations.SampleWordsDecode : Prop :=
  decode [0x00000001#32, 0x00002B11#32, 0#32, 0#32] = some (.setup 11025 0 0, []) ∧
  decode [0x0000C802#32, 0x00010000#32, 0x00008000#32, 0#32] = some (.play 200 0x00010000 0x00008000 0, []) ∧
  decode [0x0000C803#32, 1#32, 0x01B80000#32, 0#32, 0x00004000#32] = some (.playCh 200 1 0x01B80000 0 0x4000, []) ∧
  decode [0x00000004#32, 3#32] = some (.stop 3, []) ∧
  decode [0x00000011#32, 0x40#32] = some (.isActive 64, []) ∧
  decode [0x00000016#32] = some (.rebuildList, []) ∧
  decode [0x00000104#32, 0#32] = none ∧ decode [0x00010007#32] = none ∧ decode [0x00000008#32] = none

/-! ### The step -/

/-- R67, R80, 60_exceptions.md R230: with no fault recorded and no command in flight, the command at the head of the
port is taken and run by the very next step, unless a TICK event comes first; with RUNNING = 0 none does. -/
def Obligations.StepRunsDecodedCommand : Prop :=
  ∀ (i : Instr) (rest : List Word) (s : State), i.wellFormed = true → s.fault = none → s.inFlight = none →
    s.host.port = encode i ++ rest →
    (s.running = false → step s = exec i (s.withPort rest)) ∧
    (s.running = true → s.tickAnswer = false → step s = exec i (s.tickTaken.withPort rest))

/-- 60_exceptions.md R230, R231, R232: while RUNNING = 1 a TICK event that HOST delivers at a step boundary is the next
step, whatever CMD is doing. The TICK saves nothing and leaves the in-flight command as it is. -/
def Obligations.DeliveredTickRunsNext : Prop :=
  ∀ s : State, s.fault = none → s.running = true → s.tickAnswer = true →
    step s = exec .tick s.tickTaken ∧
    ∃ t, step s = .next t ∧ t.inFlight = s.inFlight ∧ t.host.port = s.host.port ∧ t.results = s.results

/-- 60_exceptions.md R230, 10_state.md R34: while RUNNING = 0 no TICK occurs, and LEVEL is written by TICK and by nothing
else: a step that is no TICK leaves LEVEL and adds no OutputLevel event to those delivered. -/
def Obligations.NoTickWhileNotRunning : Prop :=
  ∀ s t : State, s.running = false ∨ s.tickAnswer = false → step s = .next t →
    t.level = s.level ∧ t.events.filter Event.isOutputLevel = s.events.filter Event.isOutputLevel

/-- R95, 60_exceptions.md R223: a command word with an unassigned OPC, a non-zero RSV, or a non-zero VOL outside PLAY and
PLAY_CH records {1, the word} in FAULT and changes nothing else; no operand word is taken from the port. -/
def Obligations.IllegalCommandRecordsFault : Prop :=
  FaultCode.illegalCommand.number = 1 ∧
  ∀ (cw : Word) (rest : List Word) (s : State),
    (cw.extractLsb' 0 8 = 0x00#8 ∨ (0x08#8 ≤ cw.extractLsb' 0 8 ∧ cw.extractLsb' 0 8 ≤ 0x0F#8) ∨
      0x17#8 ≤ cw.extractLsb' 0 8 ∨ cw.extractLsb' 16 16 ≠ 0#16 ∨
      (cw.extractLsb' 8 8 ≠ 0#8 ∧ cw.extractLsb' 0 8 ≠ 0x02#8 ∧ cw.extractLsb' 0 8 ≠ 0x03#8)) →
    s.fault = none → s.inFlight = none → s.host.port = cw :: rest →
    (s.running = false →
      step s = .next { s with fault := some ⟨.illegalCommand, cw⟩, host := { s.host with port := rest } }) ∧
    (s.running = true → s.tickAnswer = false →
      step s = .next { s with
        fault := some ⟨.illegalCommand, cw⟩
        host := { s.host with port := rest, ticks := s.host.ticks.tail, tickDraws := s.host.tickDraws + 1 } })

/-- 60_exceptions.md R228: a step that records a fault writes nothing else and delivers no result: all that changes is
FAULT, the command in flight, which ends, and what was taken of HOST's port and of its answers about TICK. -/
def Obligations.RaisingFaultWritesNothingElse : Prop :=
  ∀ (s t : State) (r : FaultRecord), s.fault = none → step s = .next t → t.fault = some r →
    t = { s with
      fault := some r
      inFlight := none
      host := { s.host with port := t.host.port, ticks := t.host.ticks, tickDraws := t.host.tickDraws } }

/-- 60_exceptions.md R228: after a fault neither CMD nor TICK takes a step; that `step` then answers a fault is log 6. -/
def Obligations.RecordedFaultStopsBlock : Prop :=
  ∀ (s : State) (r : FaultRecord), s.fault = some r → step s = .fault (.recorded r.code)

/-- 60_exceptions.md R220, R228: every step takes a next state unless a fault is already recorded; nothing is refused. -/
def Obligations.StepStopsOnlyOnRecordedFault : Prop :=
  ∀ s : State, s.fault = none → ∃ t, step s = .next t

/-- Log 4 (DESIGN CHOICE), after 30_encoding.md R80 and 70_reset_and_hazards.md R250 "the block waits for its first command
word": with no command in flight, and on the port no word or a legal command word with operand words missing, CMD waits: a
step that is no TICK changes nothing but that, with RUNNING = 1, HOST's answer about TICK is taken. -/
def Obligations.EmptyPortLeavesBlockWaiting : Prop :=
  ∀ s : State, s.fault = none → s.inFlight = none →
    (s.host.port = [] ∨ ∃ cw ws, s.host.port = cw :: ws ∧ legalCommandWord cw = true ∧
      ws.length < operandWords (opcField cw)) →
    (s.running = false → step s = .next s) ∧
    (s.running = true → s.tickAnswer = false →
      step s = .next { s with
        host := { s.host with ticks := s.host.ticks.tail, tickDraws := s.host.tickDraws + 1 } })

/-- The model's own (log 20, DEDUCED), after 60_exceptions.md R241: where HOST's answers to `now()`, scripted or free, never
go back from here on, no step goes back behind the answer before it, and the answers left never go back either. -/
def Obligations.StepsKeepClockOrdered : Prop :=
  ∀ s t : State, s.host.clockOrdered → step s = .next t → s.nowAnswer ≤ t.nowAnswer ∧ t.host.clockOrdered

/-! ### Reset -/

/-- 70_reset_and_hazards.md R250: every piece of the spec's state at power-on. -/
def Obligations.ResetHoldsSpecValues : Prop :=
  (∀ c ∈ State.reset.pool, c =
    { phase := 0, phaseIncrement := 0, amplitude := 0, durationSamples := 0, samplesPlayed := 0, startTime := 0,
      envelope := 0, active := false, scheduled := false }) ∧
  State.reset.sampleRate = 0 ∧ State.reset.running = false ∧ State.reset.setupDone = false ∧
  State.reset.audioStartTime = 0 ∧ State.reset.level = 0 ∧ State.reset.snap = [] ∧ State.reset.snapLen = 0 ∧
  State.reset.fault = none ∧ State.reset.inFlight = none

/-- The model's choices at reset: the parameters have the defaults of 00_scope.md R8 (log 2, DESIGN CHOICE), HOST's port is
empty (log 3, DESIGN CHOICE), and waiting for the first command word (70_reset_and_hazards.md R250) is a step that changes
nothing (log 4, DESIGN CHOICE). -/
def Obligations.ResetWaitsWithDefaultParameters : Prop :=
  State.reset.channels = 64 ∧ State.reset.params.tps = 1000 ∧ State.reset.params.atomicity = .perField ∧
  State.reset.host.port = [] ∧ step State.reset = .next State.reset

/-! ### The scheduler commands (spec/40_scheduler.md) -/

/-- R111: SETUP: a second one faults, the first one initialises the block. That nothing is written before `now()` is read
is log 12 (DEDUCED), that one INSTALL_OK answer is taken even where SR = 0 is log 18 (DEDUCED). -/
def Obligations.SetupInitialisesBlock : Prop :=
  ∀ (sr outPin enPin : Word) (s : State),
    encode (.setup sr outPin enPin) = [0x00000001#32, sr, outPin, enPin] ∧
    startsOrEnds s (exec (.setup sr outPin enPin) s) { work := .setupCheck sr, writes := [], result := [] }
      (if s.setupDone then { s with fault := some ⟨.repeatedSetup, 0x00000001#32⟩ }
       else { s with
        pool := List.replicate s.pool.length Channel.reset
        sampleRate := sr
        setupDone := true
        audioStartTime := s.nowAnswer
        running := s.installAnswer && sr != 0#32
        events := if (s.installAnswer && sr != 0#32) = true then s.events else s.events ++ [.diagSetupFailed]
        host := { s.host with
          clock := clockAfter s.host.clock, clockReads := s.host.clockReads + 1
          install := s.host.install.tail, installReads := s.host.installReads + 1 } })

/-- R118, R112, R116, R117: PLAY without a sample rate faults; with one it configures the lowest-indexed Free channel and
answers its index, or answers NONE and writes nothing where the pool is full. -/
def Obligations.PlayConfiguresLowestFreeChannel : Prop :=
  ∀ (vol : Byte) (freq dur delay : Word) (s : State),
    encode (.play vol freq dur delay) = [0#16 ++ vol ++ 0x02#8, freq, dur, delay] ∧
    startsOrEnds s (exec (.play vol freq dur delay) s)
      { work := .playCheck vol freq dur delay, writes := [], result := [] }
      (if s.sampleRate = 0 then { s with fault := some ⟨.unconfigured, 0#16 ++ vol ++ 0x02#8⟩ }
       else match s.pool.findIdx? (fun c => !c.active && !c.scheduled) with
        | none => s.answered [0xFFFFFFFF#32]
        | some i => s.toneArmed i vol freq dur delay)

/-- R119, R112, R116, R117: PLAY_CH without a sample rate faults, whatever CH; with one it overwrites channel CH and
answers CH, or answers NONE and writes nothing where CH ≥ C. -/
def Obligations.PlayChOverwritesNamedChannel : Prop :=
  ∀ (vol : Byte) (ch freq dur delay : Word) (s : State),
    encode (.playCh vol ch freq dur delay) = [0#16 ++ vol ++ 0x03#8, ch, freq, dur, delay] ∧
    startsOrEnds s (exec (.playCh vol ch freq dur delay) s)
      { work := .playChCheck vol ch freq dur delay, writes := [], result := [] }
      (if s.sampleRate = 0 then { s with fault := some ⟨.unconfigured, 0#16 ++ vol ++ 0x03#8⟩ }
       else if ch.toNat < s.pool.length then s.toneArmed ch.toNat vol freq dur delay
       else s.answered [0xFFFFFFFF#32])

/-- 60_exceptions.md R224, R225: F_UNCONFIGURED (code 2) is raised by PLAY and PLAY_CH with SAMPLE_RATE = 0 and by nothing
else, F_REPEATED_SETUP (code 3) by SETUP with SETUP_DONE = 1 and by nothing else; each records the command word and
changes nothing else. First for an instruction run alone to its end, then for a single step, whatever is in flight. -/
def Obligations.FaultsExactlyWhereSpecified : Prop :=
  FaultCode.unconfigured.number = 2 ∧ FaultCode.repeatedSetup.number = 3 ∧
  (∀ (i : Instr) (s : State), s.fault = none → s.inFlight = none →
    ∃ t n, exec i s = .next t ∧ (t.cmdRun n).inFlight = none ∧
      (t.cmdRun n).fault = (match i with
        | .setup _ _ _ => if s.setupDone then some ⟨.repeatedSetup, 0x00000001#32⟩ else none
        | .play vol _ _ _ => if s.sampleRate = 0 then some ⟨.unconfigured, 0#16 ++ vol ++ 0x02#8⟩ else none
        | .playCh vol _ _ _ _ => if s.sampleRate = 0 then some ⟨.unconfigured, 0#16 ++ vol ++ 0x03#8⟩ else none
        | _ => none) ∧
      ((t.cmdRun n).fault ≠ none → t.cmdRun n = { s with fault := (t.cmdRun n).fault })) ∧
  ∀ (s t : State) (r : FaultRecord), s.fault = none → step s = .next t → t.fault = some r →
    match r.code with
    | .illegalCommand =>
      s.inFlight = none ∧ legalCommandWord r.word = false ∧ s.host.port = r.word :: t.host.port
    | .unconfigured =>
      s.sampleRate = 0 ∧ ∃ vol : Byte, r.word = 0#16 ++ vol ++ 0x02#8 ∨ r.word = 0#16 ++ vol ++ 0x03#8
    | .repeatedSetup => s.setupDone = true ∧ r.word = 0x00000001#32

/-- R120: STOP clears the two flags of channel CH and nothing else; CH ≥ C is a no-op. -/
def Obligations.StopFreesNamedChannel : Prop :=
  ∀ (ch : Word) (s : State),
    encode (.stop ch) = [0x00000004#32, ch] ∧
    (ch.toNat < s.pool.length →
      startsOrEnds s (exec (.stop ch) s)
        { work := .deliver
          writes := [.channel ch.toNat (.active false), .channel ch.toNat (.scheduled false)], result := [] }
        (s.channelBecomes ch.toNat fun c => { c with active := false, scheduled := false })) ∧
    (s.pool.length ≤ ch.toNat →
      startsOrEnds s (exec (.stop ch) s) { work := .deliver, writes := [], result := [] } s)

/-- R121: STOP_ALL clears the two flags of every channel and nothing else. -/
def Obligations.StopAllFreesEveryChannel : Prop :=
  encode .stopAll = [0x00000005#32] ∧
  ∀ s : State,
    startsOrEnds s (exec .stopAll s) { work := .freeFrom 0, writes := [], result := [] }
      { s with pool := s.pool.map fun c => { c with active := false, scheduled := false } }

/-- R122: CANCEL clears `scheduled` of channel CH where it is 1 and writes nothing else; CH ≥ C is a no-op. -/
def Obligations.CancelDisarmsScheduledChannel : Prop :=
  ∀ (ch : Word) (s : State),
    encode (.cancel ch) = [0x00000006#32, ch] ∧
    (ch.toNat < s.pool.length →
      startsOrEnds s (exec (.cancel ch) s) { work := .cancelRead ch.toNat, writes := [], result := [] }
        (s.channelBecomes ch.toNat fun c => if c.scheduled then { c with scheduled := false } else c)) ∧
    (s.pool.length ≤ ch.toNat →
      startsOrEnds s (exec (.cancel ch) s) { work := .deliver, writes := [], result := [] } s)

/-- R123: UPDATE reads `now()` once and promotes exactly the Scheduled channels whose start time it has reached. -/
def Obligations.UpdatePromotesDueChannels : Prop :=
  encode .update = [0x00000007#32] ∧
  ∀ s : State,
    startsOrEnds s (exec .update s) { work := .updateNow, writes := [], result := [] }
      { s with
        pool := s.pool.map fun c =>
          if c.scheduled = true ∧ c.startTime.toNat ≤ s.nowAnswer.toNat then
            { c with phase := 0, samplesPlayed := 0, envelope := 0, active := true, scheduled := false }
          else c
        host := { s.host with clock := clockAfter s.host.clock, clockReads := s.host.clockReads + 1 } }

/-! ### The queries (spec/42_query.md) -/

/-- R191: FIND_FREE answers the lowest-indexed Free channel, NONE exactly where there is none, and writes nothing. -/
def Obligations.FindFreeAnswersLowestFree : Prop :=
  encode .findFree = [0x00000010#32] ∧
  ∀ s : State,
    startsOrEnds s (exec .findFree s) { work := .scan 0 .findFree, writes := [], result := [] }
      (s.answered [match s.pool.findIdx? (fun c => !c.active && !c.scheduled) with
        | none => 0xFFFFFFFF#32
        | some i => BitVec.ofNat 32 i])

/-- R192, in a pool of legal size (00_scope.md R8): REBUILD_LIST stores the indices of the busy channels in ascending
order, and their number. -/
def Obligations.RebuildListStoresBusyIndices : Prop :=
  encode .rebuildList = [0x00000016#32] ∧
  ∀ s : State, s.pool.length ≤ 2 ^ 24 →
    startsOrEnds s (exec .rebuildList s) { work := .scan 0 (.rebuild 0), writes := [], result := [] }
      { s with
        snap := ((List.range s.pool.length).filter fun i => s.activeAt i || s.scheduledAt i).map (BitVec.ofNat 32)
        snapLen := BitVec.ofNat 32 (s.pool.countP fun c => c.active || c.scheduled) }

/-- R193: ACTIVE_COUNT answers the number of busy channels and writes nothing. -/
def Obligations.ActiveCountAnswersBusyChannels : Prop :=
  encode .activeCount = [0x00000012#32] ∧
  ∀ s : State,
    startsOrEnds s (exec .activeCount s) { work := .scan 0 (.countBusy 0), writes := [], result := [] }
      (s.answered [BitVec.ofNat 32 (s.pool.countP fun c => c.active || c.scheduled)])

/-- R194: PLAYING_COUNT answers the number of channels with `active` and writes nothing. -/
def Obligations.PlayingCountAnswersActiveChannels : Prop :=
  encode .playingCount = [0x00000013#32] ∧
  ∀ s : State,
    startsOrEnds s (exec .playingCount s) { work := .scan 0 (.countActive 0), writes := [], result := [] }
      (s.answered [BitVec.ofNat 32 (s.pool.countP fun c => c.active)])

/-- R195, R196, R197: IS_ACTIVE answers the `active` bit of channel CH, 0 where CH ≥ C; MAX_CHANNELS answers C;
START_TIME answers AUDIO_START_TIME, low word first. None writes anything. -/
def Obligations.PlainQueriesAnswerTheirValue : Prop :=
  encode .maxChannels = [0x00000014#32] ∧ encode .startTime = [0x00000015#32] ∧
  ∀ (ch : Word) (s : State),
    encode (.isActive ch) = [0x00000011#32, ch] ∧
    (∀ c, s.pool[ch.toNat]? = some c →
      startsOrEnds s (exec (.isActive ch) s) { work := .isActiveRead ch.toNat, writes := [], result := [] }
        (s.answered [if c.active then 1#32 else 0#32])) ∧
    (s.pool.length ≤ ch.toNat →
      startsOrEnds s (exec (.isActive ch) s) { work := .deliver, writes := [], result := [0#32] }
        (s.answered [0#32])) ∧
    startsOrEnds s (exec .maxChannels s)
      { work := .deliver, writes := [], result := [BitVec.ofNat 32 s.pool.length] }
      (s.answered [BitVec.ofNat 32 s.pool.length]) ∧
    startsOrEnds s (exec .startTime s) { work := .startTimeRead, writes := [], result := [] }
      (s.answered [s.audioStartTime.extractLsb' 0 32, s.audioStartTime.extractLsb' 32 32])

/-- R190: under `per_field` too, every step CMD takes for a query that is not REBUILD_LIST changes nothing but the
command in flight and, at its end, the result words; REBUILD_LIST starts in a position of `InFlight.ofRebuild`, and every
step CMD takes for it changes nothing but SNAP, SNAP_LEN, the command in flight and WRITE_ORDER's draws. -/
def Obligations.QueryStepsWriteNothing : Prop :=
  (∀ (s : State) (f : InFlight), s.inFlight = some f → f.ofQuery →
    ∃ t, s.cmdStep = .next t ∧ t = { s with inFlight := t.inFlight, results := t.results } ∧
      ∀ g, t.inFlight = some g → g.ofQuery) ∧
  (∀ s : State, s.params.atomicity = .perField →
    ∃ f, f.ofRebuild ∧ exec .rebuildList s = .next { s with inFlight := some f }) ∧
  ∀ (s : State) (f : InFlight), s.inFlight = some f → f.ofRebuild →
    ∃ t, s.cmdStep = .next t ∧
      t = { s with
        snap := t.snap, snapLen := t.snapLen, inFlight := t.inFlight
        host := { s.host with order := t.host.order, orderDraws := t.host.orderDraws } } ∧
      ∀ g, t.inFlight = some g → g.ofRebuild

/-! ### How commands run (spec/20_memory.md R65 to R67) -/

/-- R66, R67, 90_conflicts.md C8: with no TICK between its steps, a command under `per_field` ends, whatever
WRITE_ORDER draws, in the same state as the same command under `per_command` (but for the draws themselves). -/
def Obligations.PerFieldWithoutTickIsPerCommand : Prop :=
  ∀ (i : Instr) (s : State), i.wellFormed = true → s.inFlight = none →
    ∃ t u n, exec i (s.withAtomicity .perField) = .next t ∧ exec i (s.withAtomicity .perCommand) = .next u ∧
      (t.cmdRun n).inFlight = none ∧ (t.cmdRun n).visible = u.visible

/-- R67: under `per_command` a whole command is one step: no step leaves a command in flight. -/
def Obligations.PerCommandTakesOneStep : Prop :=
  ∀ s t : State, s.params.atomicity = .perCommand → s.inFlight = none → step s = .next t → t.inFlight = none

/-- R80: every command ends: under either granularity, at most 9 C + 16 of its own steps after it has started. -/
def Obligations.EveryCommandEnds : Prop :=
  ∀ (i : Instr) (s t : State), s.inFlight = none → exec i s = .next t →
    (t.cmdRun (9 * s.channels + 16)).inFlight = none

/-- 20_memory.md R73 (the spec's inference): a TICK leaves a channel that is not Active exactly as it is, so it takes no
Free channel from PLAY. -/
def Obligations.TickLeavesInactiveChannels : Prop :=
  ∀ (s t : State) (i : Nat) (c : Channel), exec .tick s = .next t → s.pool[i]? = some c → c.active = false →
    t.pool[i]? = some c

/-- 40_scheduler.md R124 (the spec's inference): no step makes a channel Active but a pending write that sets `active`,
and, under `per_command`, a PLAY, a PLAY_CH or an UPDATE. Such a write becomes pending only where CONFIGURE's immediate arm
or UPDATE's promotion of that very channel sets it up, and these are reached only from a PLAY, a PLAY_CH or an UPDATE that
the port held. -/
def Obligations.OnlyArmsAndUpdateActivate : Prop :=
  (∀ (s t : State) (i : Nat), step s = .next t → s.activeAt i = false → t.activeAt i = true →
    Write.channel i (.active true) ∈ s.pending ∨
    (s.params.atomicity = .perCommand ∧ ∃ cmd rest, decode s.host.port = some (cmd, rest) ∧
      ((∃ vol freq dur delay, cmd = .play vol freq dur delay) ∨
       (∃ vol ch freq dur delay, cmd = .playCh vol ch freq dur delay) ∨ cmd = .update))) ∧
  (∀ (s t : State) (i : Nat), step s = .next t → Write.channel i (.active true) ∈ t.pending →
    Write.channel i (.active true) ∈ s.pending ∨
    ∃ f, s.inFlight = some f ∧ f.writes = [] ∧
      ((∃ vol freq dur delay, f.work = .configure i vol freq dur delay ∧ delay.toInt ≤ 0) ∨
       ∃ now, f.work = .updateStart now i ∧ (s.startTimeAt i).toNat ≤ now.toNat)) ∧
  ∀ (s t : State) (g : InFlight), step s = .next t → t.inFlight = some g →
    (g.work.ofArm → (∃ f, s.inFlight = some f ∧ f.work.ofArm) ∨
      (s.inFlight = none ∧ ∃ cmd rest, decode s.host.port = some (cmd, rest) ∧
        ((∃ vol freq dur delay, cmd = .play vol freq dur delay) ∨
         ∃ vol ch freq dur delay, cmd = .playCh vol ch freq dur delay))) ∧
    (g.work.ofUpdate → (∃ f, s.inFlight = some f ∧ f.work.ofUpdate) ∨
      (s.inFlight = none ∧ ∃ rest, decode s.host.port = some (.update, rest)))

/-- 70_reset_and_hazards.md R254, 95_test_vectors.md 2.9: PLAY_CH on an Active channel whose count has passed the new
duration, with exactly one TICK in the run: with one order of the writes and one placing of the TICK the new tone is lost,
all its other fields as the command wrote them and none of its samples played, with another it plays. -/
def Obligations.PlayChOnActiveChannelMayLoseTone : Prop :=
  ∃ s : State, s.params.atomicity = .perField ∧ s.fault = none ∧ s.inFlight = none ∧ s.running = true ∧
    s.sampleRate = 8 ∧ dursOf 0x00008000 s.sampleRate = 4 ∧
    s.host.port = encode (.playCh 200 0 0x00010000 0x00008000 0) ∧
    s.pool = [{ phase := 0x80000000, phaseIncrement := 0x20000000, amplitude := 200, durationSamples := 0,
                samplesPlayed := 100, startTime := 0, envelope := 0, active := true, scheduled := false }] ∧
    (∃ ticks order n t, core.run n { s with host := { s.host with ticks := ticks, order := order } } = .next t ∧
      t.atEnd = true ∧ t.results = s.results ++ [0#32] ∧ t.events = s.events ++ [.outputLevel 0] ∧ t.level = 0 ∧
      t.pool = [{ phase := 0, phaseIncrement := 0x20000000, amplitude := 200, durationSamples := 4,
                  samplesPlayed := 0, startTime := 0, envelope := 0, active := false, scheduled := false }]) ∧
    (∃ ticks order n t, core.run n { s with host := { s.host with ticks := ticks, order := order } } = .next t ∧
      t.atEnd = true ∧ t.results = s.results ++ [0#32] ∧ t.events = s.events ++ [.outputLevel 50] ∧ t.level = 50 ∧
      t.pool = [{ phase := 0x20000000, phaseIncrement := 0x20000000, amplitude := 200, durationSamples := 4,
                  samplesPlayed := 1, startTime := 0, envelope := 0, active := true, scheduled := false }])

/-! ### Conversions (spec/40_scheduler.md R113 to R115) -/

/-- R113: the increment is `floor(FREQ * 2^16 / sr) mod 2^32`; a frequency below one step gives 0, half the sample rate
gives 0x80000000, and an increment that does not wrap is within one quantization step below the frequency. -/
def Obligations.IncrementIsFloorOfFrequency : Prop :=
  ∀ freq sr : Word, sr ≠ 0 →
    (incOf freq sr).toNat = freq.toNat * 2 ^ 16 / sr.toNat % 2 ^ 32 ∧
    (freq.toNat * 2 ^ 16 < sr.toNat → incOf freq sr = 0) ∧
    (2 * freq.toNat = sr.toNat * 2 ^ 16 → incOf freq sr = 0x80000000#32) ∧
    (freq.toNat * 2 ^ 16 < sr.toNat * 2 ^ 32 →
      (incOf freq sr).toNat * sr.toNat ≤ freq.toNat * 2 ^ 16 ∧
      freq.toNat * 2 ^ 16 < ((incOf freq sr).toNat + 1) * sr.toNat) ∧
    incOf 0x01B80000#32 11025#32 = 0x0A377EE5#32

/-- R114, R258: the duration is `floor(sr * DUR / 2^16) mod 2^32` for a positive DUR and 0, indefinite, else; a positive
DUR of less than one sample is 0 too. -/
def Obligations.DurationIsFloorOfSeconds : Prop :=
  ∀ dur sr : Word,
    (0 < dur.toInt → ((dursOf dur sr).toNat : Int) = sr.toNat * dur.toInt / 2 ^ 16 % 2 ^ 32) ∧
    (dur.toInt ≤ 0 → dursOf dur sr = 0) ∧
    (0 < dur.toInt → sr.toNat * dur.toInt < 2 ^ 16 → dursOf dur sr = 0)

/-- R115: the start time of a positive DELAY is `(now + floor(DELAY * TPS / 2^16)) mod 2^64`, `now` itself where DELAY
is less than one time unit. -/
def Obligations.StartTimeIsNowPlusDelay : Prop :=
  ∀ (now : Time) (delay : Word) (tps : Nat), 0 < delay.toInt →
    ((startOf now delay tps).toNat : Int) = (now.toNat + delay.toInt * tps / 2 ^ 16) % 2 ^ 64 ∧
    (delay.toInt * tps < 2 ^ 16 → startOf now delay tps = now)

/-! ### TICK (spec/41_mixer.md) -/

/-- R160 to R166, in a pool of legal size (00_scope.md R8): the whole effect of a TICK. -/
def Obligations.TickAdvancesRetiresAndMixes : Prop :=
  ∀ s : State, s.pool.length ≤ 2 ^ 24 →
    let adds := s.pool.filter fun c =>
      c.active && !(decide (0#32 < c.durationSamples) && decide (c.durationSamples ≤ c.samplesPlayed + 1))
        && c.amplitude != 0#8
    let sum := (adds.map fun c =>
      if ((c.phase + c.phaseIncrement).extractLsb' 24 8).toNat < 128 then c.amplitude.toNat else 0).sum
    let out : Byte := if adds.length = 0 then 0 else BitVec.ofNat 8 (clamp (sum / adds.length / 4) 0 255)
    exec .tick s = .next { s with
      pool := s.pool.map fun c =>
        if c.active then
          if 0#32 < c.durationSamples ∧ c.durationSamples ≤ c.samplesPlayed + 1 then
            { c with phase := c.phase + c.phaseIncrement, samplesPlayed := c.samplesPlayed + 1
                     active := false, scheduled := false }
          else { c with phase := c.phase + c.phaseIncrement, samplesPlayed := c.samplesPlayed + 1 }
        else c
      level := out
      events := s.events ++ [.outputLevel out] }

/-- R165: SQUARE, its two forms, its boundary and its range. -/
def Obligations.SquareIsHighInFirstHalf : Prop :=
  (∀ p a : Byte, square p a = if p.toNat < 128 then a else 0) ∧
  (∀ (phase : Word) (a : Byte), square (phaseByte phase) a = if phase.getLsbD 31 then 0 else a) ∧
  (∀ a : Byte, square 127 a = a ∧ square 128 a = 0)

/-- R167 (the spec's inference): LEVEL of a pool of legal size is at most 63, and its two roundings are one. -/
def Obligations.LevelNeverAboveSixtyThree : Prop :=
  ∀ pool : List Channel, pool.length ≤ 2 ^ 24 →
    (mixOf pool).level ≤ 63#8 ∧
    (mixOf pool).sum.toNat / (mixOf pool).count.toNat / 4 = (mixOf pool).sum.toNat / (4 * (mixOf pool).count.toNat)

/-- R168: the 32-bit accumulators hold the exact sum and count in a pool of legal size, and the scan order is without
effect. -/
def Obligations.MixAccumulatorsExactAndOrderFree : Prop :=
  (∀ pool : List Channel, pool.length ≤ 2 ^ 24 →
    (mixOf pool).sum.toNat = ((pool.filter Channel.contributes).map fun c => c.contribution.toNat).sum ∧
    (mixOf pool).count.toNat = (pool.filter Channel.contributes).length ∧
    (mixOf pool).sum.toNat ≤ 255 * pool.length ∧ (mixOf pool).count.toNat ≤ pool.length) ∧
  ∀ p q : List Channel, p.Perm q → mixOf p = mixOf q

/-- R169, X7 (the spec's inference): a tone of D > 0 samples is Active on ticks 1 to D - 1, with phase k * inc at tick
k, and expires on tick D. -/
def Obligations.ToneLivesForItsDuration : Prop :=
  ∀ (s : State) (i : Nat) (c : Channel), s.pool[i]? = some c → c.active = true → c.phase = 0 → c.samplesPlayed = 0 →
    c.durationSamples ≠ 0 →
    (∀ k, k < c.durationSamples.toNat → (s.tickTimes k).pool[i]? = some
      { c with phase := BitVec.ofNat 32 (k * c.phaseIncrement.toNat), samplesPlayed := BitVec.ofNat 32 k }) ∧
    (s.tickTimes c.durationSamples.toNat).pool[i]? = some
      { c with
        phase := c.durationSamples * c.phaseIncrement, samplesPlayed := c.durationSamples
        active := false, scheduled := false }

/-- R161, R162, R163: a channel with `duration_samples` = 0 stays Active across any number of ticks, its phase and its
count wrapping. -/
def Obligations.IndefiniteToneNeverExpires : Prop :=
  ∀ (s : State) (i k : Nat) (c : Channel), s.pool[i]? = some c → c.active = true → c.durationSamples = 0 →
    (s.tickTimes k).pool[i]? = some
      { c with
        phase := c.phase + BitVec.ofNat 32 k * c.phaseIncrement
        samplesPlayed := c.samplesPlayed + BitVec.ofNat 32 k }

/-- R171, 90_conflicts.md C3 (the spec's inference): a lone tone with increment 0 holds LEVEL at a quarter of its
amplitude, and one at half the sample rate alternates low and high, low first. -/
def Obligations.DegenerateIncrementLevels : Prop :=
  ∀ (s : State) (c : Channel) (k : Nat), s.pool = [c] → c.active = true → c.phase = 0 → c.durationSamples = 0 →
    (c.phaseIncrement = 0 → (s.tickTimes (k + 1)).level.toNat = c.amplitude.toNat / 4) ∧
    (c.phaseIncrement = 0x80000000#32 →
      (s.tickTimes (k + 1)).level.toNat = if k % 2 = 0 then 0 else c.amplitude.toNat / 4)

/-! ### Invariants -/

/-- 10_state.md R29, 90_conflicts.md C6: every step keeps that, once the pending writes are done, no channel is both
Active and Scheduled. -/
def Obligations.FlagsInvariantKept : Prop :=
  ∀ s t : State, s.flagsInv → step s = .next t → t.flagsInv

/-- 10_state.md R31, R32: every step keeps that RUNNING = 1 only after a SETUP with a rate that is not 0. -/
def Obligations.SetupInvariantKept : Prop :=
  ∀ s t : State, s.setupInv → step s = .next t → t.setupInv

/-- 41_mixer.md R167: every step keeps LEVEL at most 63, in a pool of legal size. -/
def Obligations.LevelInvariantKept : Prop :=
  ∀ s t : State, s.levelInv → step s = .next t → t.levelInv

/-- The three invariants hold at reset, and, between commands, the first says that no channel has both flags. -/
def Obligations.InvariantsHoldAtReset : Prop :=
  State.reset.flagsInv ∧ State.reset.setupInv ∧ State.reset.levelInv ∧
  ∀ s : State, s.inFlight = none → s.flagsInv → ∀ c ∈ s.pool, ¬ (c.active = true ∧ c.scheduled = true)

/-- 10_state.md R21, 00_scope.md R8: no step grows or shrinks the pool or changes a parameter. -/
def Obligations.PoolSizeAndParametersConstant : Prop :=
  ∀ s t : State, step s = .next t → t.pool.length = s.pool.length ∧ t.params = s.params

/-- 10_state.md R32, 60_exceptions.md R230: RUNNING, once set, is never cleared. -/
def Obligations.RunningNeverCleared : Prop :=
  ∀ s t : State, s.setupInv → step s = .next t → s.running = true → t.running = true
end

