-- ==== Sys2Proof/Laws/Decode.lean ====
section
/-! SUPPORT. The small lemmas of the decoder and the encoder. -/

namespace Sys2Proof

/-- R82: the three fields of a command word that the encoder makes. -/
@[simp] theorem commandFields_commandWord (o : Opcode) (vol : Byte) :
    commandFields (commandWord o vol) = (0#16, vol, o.byte) := by
  simp only [commandFields, commandWord, Prod.mk.injEq]
  refine ⟨?_, ?_, ?_⟩ <;>
  · apply BitVec.eq_of_getLsbD_eq
    intro i hi
    simp only [BitVec.getLsbD_extractLsb', BitVec.getLsbD_append, hi, decide_true, Bool.true_and]
    repeat' split
    all_goals first
      | (exfalso; omega)
      | (congr 1; omega)

/-- R82: a word is made of its three fields. -/
theorem append_commandFields (cw : Word) :
    (commandFields cw).1 ++ (commandFields cw).2.1 ++ (commandFields cw).2.2 = cw := by
  simp only [commandFields]
  apply BitVec.eq_of_getLsbD_eq
  intro i hi
  simp only [BitVec.getLsbD_append, BitVec.getLsbD_extractLsb']
  repeat' split
  · next h => simp [h]
  · next h h' =>
    rw [decide_eq_true h', Bool.true_and]
    congr 1; omega
  · rw [decide_eq_true (by omega), Bool.true_and]
    congr 1; omega

/-- R93: the byte of every opcode names it. -/
@[simp] theorem opcodeOfByte_byte (o : Opcode) : opcodeOfByte o.byte = some o := by cases o <;> decide

/-- R93: an opcode byte that names an opcode is its byte. -/
theorem byte_of_opcodeOfByte {b : Byte} {o : Opcode} (h : opcodeOfByte b = some o) : o.byte = b := by
  simpa using List.find?_some h

/-- R82, R84: the decoder reads the opcode and the VOL back from the encoder's command word. -/
theorem decodeWord_commandWord (o : Opcode) (vol : Byte) (h : o.takesVol = true ∨ vol = 0#8) :
    decodeWord (commandWord o vol) = .ok (o, vol) := by
  simp only [decodeWord, commandFields_commandWord, opcodeOfByte_byte]
  rw [if_neg (by simp), if_neg]
  rintro ⟨hv, ht⟩
  rcases h with h | h
  · rw [h] at ht; cases ht
  · exact hv h

/-- R82, R84: a command word that the decoder accepts is the encoder's. -/
theorem eq_commandWord_of_decodeWord {cw : Word} {o : Opcode} {vol : Byte} (h : decodeWord cw = .ok (o, vol)) :
    cw = commandWord o vol ∧ (o.takesVol = true ∨ vol = 0#8) := by
  have hcw := append_commandFields cw
  unfold decodeWord at h
  generalize commandFields cw = fields at h hcw
  obtain ⟨rsv, v, opc⟩ := fields
  dsimp only at h hcw
  cases ho : opcodeOfByte opc with
  | none => simp [ho] at h
  | some o' =>
    simp only [ho] at h
    split at h
    · cases h
    · next hr =>
      split at h
      · cases h
      · next hv =>
        simp only [Except.ok.injEq, Prod.mk.injEq] at h
        obtain ⟨rfl, rfl⟩ := h
        refine ⟨?_, ?_⟩
        · rw [← hcw, Decidable.not_not.mp hr, ← byte_of_opcodeOfByte ho]; rfl
        · by_cases h0 : v = 0#8
          · exact .inr h0
          · left
            cases ht : o'.takesVol with
            | true => rfl
            | false => exact absurd ⟨h0, ht⟩ hv

end Sys2Proof
end

