-- ==== Sys2Proof/Laws/State.lean ====
section
/-! SUPPORT. What each named update of State leaves in each field: one lemma per field per update, true by rfl, so that no
proof unfolds an update. -/

namespace Sys2Proof.Machine

variable (s : State)

@[simp] theorem State.nowTaken_pool : s.nowTaken.pool = s.pool := rfl
@[simp] theorem State.nowTaken_sampleRate : s.nowTaken.sampleRate = s.sampleRate := rfl
@[simp] theorem State.nowTaken_running : s.nowTaken.running = s.running := rfl
@[simp] theorem State.nowTaken_setupDone : s.nowTaken.setupDone = s.setupDone := rfl
@[simp] theorem State.nowTaken_audioStartTime : s.nowTaken.audioStartTime = s.audioStartTime := rfl
@[simp] theorem State.nowTaken_level : s.nowTaken.level = s.level := rfl
@[simp] theorem State.nowTaken_snap : s.nowTaken.snap = s.snap := rfl
@[simp] theorem State.nowTaken_snapLen : s.nowTaken.snapLen = s.snapLen := rfl
@[simp] theorem State.nowTaken_fault : s.nowTaken.fault = s.fault := rfl
@[simp] theorem State.nowTaken_inFlight : s.nowTaken.inFlight = s.inFlight := rfl
@[simp] theorem State.nowTaken_params : s.nowTaken.params = s.params := rfl
@[simp] theorem State.nowTaken_host :
    s.nowTaken.host = { s.host with clock := clockAfter s.host.clock, clockReads := s.host.clockReads + 1 } := rfl
@[simp] theorem State.nowTaken_results : s.nowTaken.results = s.results := rfl
@[simp] theorem State.nowTaken_events : s.nowTaken.events = s.events := rfl

@[simp] theorem State.installTaken_pool : s.installTaken.pool = s.pool := rfl
@[simp] theorem State.installTaken_sampleRate : s.installTaken.sampleRate = s.sampleRate := rfl
@[simp] theorem State.installTaken_running : s.installTaken.running = s.running := rfl
@[simp] theorem State.installTaken_setupDone : s.installTaken.setupDone = s.setupDone := rfl
@[simp] theorem State.installTaken_audioStartTime : s.installTaken.audioStartTime = s.audioStartTime := rfl
@[simp] theorem State.installTaken_level : s.installTaken.level = s.level := rfl
@[simp] theorem State.installTaken_snap : s.installTaken.snap = s.snap := rfl
@[simp] theorem State.installTaken_snapLen : s.installTaken.snapLen = s.snapLen := rfl
@[simp] theorem State.installTaken_fault : s.installTaken.fault = s.fault := rfl
@[simp] theorem State.installTaken_inFlight : s.installTaken.inFlight = s.inFlight := rfl
@[simp] theorem State.installTaken_params : s.installTaken.params = s.params := rfl
@[simp] theorem State.installTaken_host :
    s.installTaken.host = { s.host with install := s.host.install.tail, installReads := s.host.installReads + 1 } := rfl
@[simp] theorem State.installTaken_results : s.installTaken.results = s.results := rfl
@[simp] theorem State.installTaken_events : s.installTaken.events = s.events := rfl

@[simp] theorem State.tickTaken_pool : s.tickTaken.pool = s.pool := rfl
@[simp] theorem State.tickTaken_sampleRate : s.tickTaken.sampleRate = s.sampleRate := rfl
@[simp] theorem State.tickTaken_running : s.tickTaken.running = s.running := rfl
@[simp] theorem State.tickTaken_setupDone : s.tickTaken.setupDone = s.setupDone := rfl
@[simp] theorem State.tickTaken_audioStartTime : s.tickTaken.audioStartTime = s.audioStartTime := rfl
@[simp] theorem State.tickTaken_level : s.tickTaken.level = s.level := rfl
@[simp] theorem State.tickTaken_snap : s.tickTaken.snap = s.snap := rfl
@[simp] theorem State.tickTaken_snapLen : s.tickTaken.snapLen = s.snapLen := rfl
@[simp] theorem State.tickTaken_fault : s.tickTaken.fault = s.fault := rfl
@[simp] theorem State.tickTaken_inFlight : s.tickTaken.inFlight = s.inFlight := rfl
@[simp] theorem State.tickTaken_params : s.tickTaken.params = s.params := rfl
@[simp] theorem State.tickTaken_host :
    s.tickTaken.host = { s.host with ticks := s.host.ticks.tail, tickDraws := s.host.tickDraws + 1 } := rfl
@[simp] theorem State.tickTaken_results : s.tickTaken.results = s.results := rfl
@[simp] theorem State.tickTaken_events : s.tickTaken.events = s.events := rfl

@[simp] theorem State.orderTaken_pool : s.orderTaken.pool = s.pool := rfl
@[simp] theorem State.orderTaken_sampleRate : s.orderTaken.sampleRate = s.sampleRate := rfl
@[simp] theorem State.orderTaken_running : s.orderTaken.running = s.running := rfl
@[simp] theorem State.orderTaken_setupDone : s.orderTaken.setupDone = s.setupDone := rfl
@[simp] theorem State.orderTaken_audioStartTime : s.orderTaken.audioStartTime = s.audioStartTime := rfl
@[simp] theorem State.orderTaken_level : s.orderTaken.level = s.level := rfl
@[simp] theorem State.orderTaken_snap : s.orderTaken.snap = s.snap := rfl
@[simp] theorem State.orderTaken_snapLen : s.orderTaken.snapLen = s.snapLen := rfl
@[simp] theorem State.orderTaken_fault : s.orderTaken.fault = s.fault := rfl
@[simp] theorem State.orderTaken_inFlight : s.orderTaken.inFlight = s.inFlight := rfl
@[simp] theorem State.orderTaken_params : s.orderTaken.params = s.params := rfl
@[simp] theorem State.orderTaken_host :
    s.orderTaken.host = { s.host with order := s.host.order.tail, orderDraws := s.host.orderDraws + 1 } := rfl
@[simp] theorem State.orderTaken_results : s.orderTaken.results = s.results := rfl
@[simp] theorem State.orderTaken_events : s.orderTaken.events = s.events := rfl

@[simp] theorem State.withPort_pool (ws : List Word) : (s.withPort ws).pool = s.pool := rfl
@[simp] theorem State.withPort_sampleRate (ws : List Word) : (s.withPort ws).sampleRate = s.sampleRate := rfl
@[simp] theorem State.withPort_running (ws : List Word) : (s.withPort ws).running = s.running := rfl
@[simp] theorem State.withPort_setupDone (ws : List Word) : (s.withPort ws).setupDone = s.setupDone := rfl
@[simp] theorem State.withPort_audioStartTime (ws : List Word) :
    (s.withPort ws).audioStartTime = s.audioStartTime := rfl
@[simp] theorem State.withPort_level (ws : List Word) : (s.withPort ws).level = s.level := rfl
@[simp] theorem State.withPort_snap (ws : List Word) : (s.withPort ws).snap = s.snap := rfl
@[simp] theorem State.withPort_snapLen (ws : List Word) : (s.withPort ws).snapLen = s.snapLen := rfl
@[simp] theorem State.withPort_fault (ws : List Word) : (s.withPort ws).fault = s.fault := rfl
@[simp] theorem State.withPort_inFlight (ws : List Word) : (s.withPort ws).inFlight = s.inFlight := rfl
@[simp] theorem State.withPort_params (ws : List Word) : (s.withPort ws).params = s.params := rfl
@[simp] theorem State.withPort_host (ws : List Word) : (s.withPort ws).host = { s.host with port := ws } := rfl
@[simp] theorem State.withPort_results (ws : List Word) : (s.withPort ws).results = s.results := rfl
@[simp] theorem State.withPort_events (ws : List Word) : (s.withPort ws).events = s.events := rfl

@[simp] theorem State.deliver_pool (ws : List Word) : (s.deliver ws).pool = s.pool := rfl
@[simp] theorem State.deliver_sampleRate (ws : List Word) : (s.deliver ws).sampleRate = s.sampleRate := rfl
@[simp] theorem State.deliver_running (ws : List Word) : (s.deliver ws).running = s.running := rfl
@[simp] theorem State.deliver_setupDone (ws : List Word) : (s.deliver ws).setupDone = s.setupDone := rfl
@[simp] theorem State.deliver_audioStartTime (ws : List Word) :
    (s.deliver ws).audioStartTime = s.audioStartTime := rfl
@[simp] theorem State.deliver_level (ws : List Word) : (s.deliver ws).level = s.level := rfl
@[simp] theorem State.deliver_snap (ws : List Word) : (s.deliver ws).snap = s.snap := rfl
@[simp] theorem State.deliver_snapLen (ws : List Word) : (s.deliver ws).snapLen = s.snapLen := rfl
@[simp] theorem State.deliver_fault (ws : List Word) : (s.deliver ws).fault = s.fault := rfl
@[simp] theorem State.deliver_inFlight (ws : List Word) : (s.deliver ws).inFlight = none := rfl
@[simp] theorem State.deliver_params (ws : List Word) : (s.deliver ws).params = s.params := rfl
@[simp] theorem State.deliver_host (ws : List Word) : (s.deliver ws).host = s.host := rfl
@[simp] theorem State.deliver_results (ws : List Word) : (s.deliver ws).results = s.results ++ ws := rfl
@[simp] theorem State.deliver_events (ws : List Word) : (s.deliver ws).events = s.events := rfl

@[simp] theorem State.goesOn_pool (f : InFlight) : (s.goesOn f).pool = s.pool := rfl
@[simp] theorem State.goesOn_sampleRate (f : InFlight) : (s.goesOn f).sampleRate = s.sampleRate := rfl
@[simp] theorem State.goesOn_running (f : InFlight) : (s.goesOn f).running = s.running := rfl
@[simp] theorem State.goesOn_setupDone (f : InFlight) : (s.goesOn f).setupDone = s.setupDone := rfl
@[simp] theorem State.goesOn_audioStartTime (f : InFlight) : (s.goesOn f).audioStartTime = s.audioStartTime := rfl
@[simp] theorem State.goesOn_level (f : InFlight) : (s.goesOn f).level = s.level := rfl
@[simp] theorem State.goesOn_snap (f : InFlight) : (s.goesOn f).snap = s.snap := rfl
@[simp] theorem State.goesOn_snapLen (f : InFlight) : (s.goesOn f).snapLen = s.snapLen := rfl
@[simp] theorem State.goesOn_fault (f : InFlight) : (s.goesOn f).fault = s.fault := rfl
@[simp] theorem State.goesOn_inFlight (f : InFlight) : (s.goesOn f).inFlight = some f := rfl
@[simp] theorem State.goesOn_params (f : InFlight) : (s.goesOn f).params = s.params := rfl
@[simp] theorem State.goesOn_host (f : InFlight) : (s.goesOn f).host = s.host := rfl
@[simp] theorem State.goesOn_results (f : InFlight) : (s.goesOn f).results = s.results := rfl
@[simp] theorem State.goesOn_events (f : InFlight) : (s.goesOn f).events = s.events := rfl

@[simp] theorem State.emit_pool (e : Event) : (s.emit e).pool = s.pool := rfl
@[simp] theorem State.emit_sampleRate (e : Event) : (s.emit e).sampleRate = s.sampleRate := rfl
@[simp] theorem State.emit_running (e : Event) : (s.emit e).running = s.running := rfl
@[simp] theorem State.emit_setupDone (e : Event) : (s.emit e).setupDone = s.setupDone := rfl
@[simp] theorem State.emit_audioStartTime (e : Event) : (s.emit e).audioStartTime = s.audioStartTime := rfl
@[simp] theorem State.emit_level (e : Event) : (s.emit e).level = s.level := rfl
@[simp] theorem State.emit_snap (e : Event) : (s.emit e).snap = s.snap := rfl
@[simp] theorem State.emit_snapLen (e : Event) : (s.emit e).snapLen = s.snapLen := rfl
@[simp] theorem State.emit_fault (e : Event) : (s.emit e).fault = s.fault := rfl
@[simp] theorem State.emit_inFlight (e : Event) : (s.emit e).inFlight = s.inFlight := rfl
@[simp] theorem State.emit_params (e : Event) : (s.emit e).params = s.params := rfl
@[simp] theorem State.emit_host (e : Event) : (s.emit e).host = s.host := rfl
@[simp] theorem State.emit_results (e : Event) : (s.emit e).results = s.results := rfl
@[simp] theorem State.emit_events (e : Event) : (s.emit e).events = s.events ++ [e] := rfl

@[simp] theorem State.raiseFault_pool (c : FaultCode) (w : Word) : (s.raiseFault c w).pool = s.pool := rfl
@[simp] theorem State.raiseFault_sampleRate (c : FaultCode) (w : Word) :
    (s.raiseFault c w).sampleRate = s.sampleRate := rfl
@[simp] theorem State.raiseFault_running (c : FaultCode) (w : Word) : (s.raiseFault c w).running = s.running := rfl
@[simp] theorem State.raiseFault_setupDone (c : FaultCode) (w : Word) :
    (s.raiseFault c w).setupDone = s.setupDone := rfl
@[simp] theorem State.raiseFault_audioStartTime (c : FaultCode) (w : Word) :
    (s.raiseFault c w).audioStartTime = s.audioStartTime := rfl
@[simp] theorem State.raiseFault_level (c : FaultCode) (w : Word) : (s.raiseFault c w).level = s.level := rfl
@[simp] theorem State.raiseFault_snap (c : FaultCode) (w : Word) : (s.raiseFault c w).snap = s.snap := rfl
@[simp] theorem State.raiseFault_snapLen (c : FaultCode) (w : Word) : (s.raiseFault c w).snapLen = s.snapLen := rfl
@[simp] theorem State.raiseFault_fault (c : FaultCode) (w : Word) :
    (s.raiseFault c w).fault = some { code := c, word := w } := rfl
@[simp] theorem State.raiseFault_inFlight (c : FaultCode) (w : Word) : (s.raiseFault c w).inFlight = none := rfl
@[simp] theorem State.raiseFault_params (c : FaultCode) (w : Word) : (s.raiseFault c w).params = s.params := rfl
@[simp] theorem State.raiseFault_host (c : FaultCode) (w : Word) : (s.raiseFault c w).host = s.host := rfl
@[simp] theorem State.raiseFault_results (c : FaultCode) (w : Word) : (s.raiseFault c w).results = s.results := rfl
@[simp] theorem State.raiseFault_events (c : FaultCode) (w : Word) : (s.raiseFault c w).events = s.events := rfl

@[simp] theorem State.ticked_pool : s.ticked.pool = s.pool.map Channel.ticked := rfl
@[simp] theorem State.ticked_sampleRate : s.ticked.sampleRate = s.sampleRate := rfl
@[simp] theorem State.ticked_running : s.ticked.running = s.running := rfl
@[simp] theorem State.ticked_setupDone : s.ticked.setupDone = s.setupDone := rfl
@[simp] theorem State.ticked_audioStartTime : s.ticked.audioStartTime = s.audioStartTime := rfl
@[simp] theorem State.ticked_level : s.ticked.level = (mixOf s.pool).level := rfl
@[simp] theorem State.ticked_snap : s.ticked.snap = s.snap := rfl
@[simp] theorem State.ticked_snapLen : s.ticked.snapLen = s.snapLen := rfl
@[simp] theorem State.ticked_fault : s.ticked.fault = s.fault := rfl
@[simp] theorem State.ticked_inFlight : s.ticked.inFlight = s.inFlight := rfl
@[simp] theorem State.ticked_params : s.ticked.params = s.params := rfl
@[simp] theorem State.ticked_host : s.ticked.host = s.host := rfl
@[simp] theorem State.ticked_results : s.ticked.results = s.results := rfl
@[simp] theorem State.ticked_events : s.ticked.events = s.events ++ [.outputLevel (mixOf s.pool).level] := rfl

@[simp] theorem State.withAtomicity_pool (a : Atomicity) : (s.withAtomicity a).pool = s.pool := rfl
@[simp] theorem State.withAtomicity_sampleRate (a : Atomicity) : (s.withAtomicity a).sampleRate = s.sampleRate := rfl
@[simp] theorem State.withAtomicity_running (a : Atomicity) : (s.withAtomicity a).running = s.running := rfl
@[simp] theorem State.withAtomicity_setupDone (a : Atomicity) : (s.withAtomicity a).setupDone = s.setupDone := rfl
@[simp] theorem State.withAtomicity_audioStartTime (a : Atomicity) :
    (s.withAtomicity a).audioStartTime = s.audioStartTime := rfl
@[simp] theorem State.withAtomicity_level (a : Atomicity) : (s.withAtomicity a).level = s.level := rfl
@[simp] theorem State.withAtomicity_snap (a : Atomicity) : (s.withAtomicity a).snap = s.snap := rfl
@[simp] theorem State.withAtomicity_snapLen (a : Atomicity) : (s.withAtomicity a).snapLen = s.snapLen := rfl
@[simp] theorem State.withAtomicity_fault (a : Atomicity) : (s.withAtomicity a).fault = s.fault := rfl
@[simp] theorem State.withAtomicity_inFlight (a : Atomicity) : (s.withAtomicity a).inFlight = s.inFlight := rfl
@[simp] theorem State.withAtomicity_params (a : Atomicity) :
    (s.withAtomicity a).params = { s.params with atomicity := a } := rfl
@[simp] theorem State.withAtomicity_host (a : Atomicity) : (s.withAtomicity a).host = s.host := rfl
@[simp] theorem State.withAtomicity_results (a : Atomicity) : (s.withAtomicity a).results = s.results := rfl
@[simp] theorem State.withAtomicity_events (a : Atomicity) : (s.withAtomicity a).events = s.events := rfl

@[simp] theorem State.channelBecomes_pool (i : Nat) (g : Channel → Channel) :
    (s.channelBecomes i g).pool = s.pool.modify i g := rfl
@[simp] theorem State.channelBecomes_sampleRate (i : Nat) (g : Channel → Channel) :
    (s.channelBecomes i g).sampleRate = s.sampleRate := rfl
@[simp] theorem State.channelBecomes_running (i : Nat) (g : Channel → Channel) :
    (s.channelBecomes i g).running = s.running := rfl
@[simp] theorem State.channelBecomes_setupDone (i : Nat) (g : Channel → Channel) :
    (s.channelBecomes i g).setupDone = s.setupDone := rfl
@[simp] theorem State.channelBecomes_audioStartTime (i : Nat) (g : Channel → Channel) :
    (s.channelBecomes i g).audioStartTime = s.audioStartTime := rfl
@[simp] theorem State.channelBecomes_level (i : Nat) (g : Channel → Channel) :
    (s.channelBecomes i g).level = s.level := rfl
@[simp] theorem State.channelBecomes_snap (i : Nat) (g : Channel → Channel) :
    (s.channelBecomes i g).snap = s.snap := rfl
@[simp] theorem State.channelBecomes_snapLen (i : Nat) (g : Channel → Channel) :
    (s.channelBecomes i g).snapLen = s.snapLen := rfl
@[simp] theorem State.channelBecomes_fault (i : Nat) (g : Channel → Channel) :
    (s.channelBecomes i g).fault = s.fault := rfl
@[simp] theorem State.channelBecomes_inFlight (i : Nat) (g : Channel → Channel) :
    (s.channelBecomes i g).inFlight = s.inFlight := rfl
@[simp] theorem State.channelBecomes_params (i : Nat) (g : Channel → Channel) :
    (s.channelBecomes i g).params = s.params := rfl
@[simp] theorem State.channelBecomes_host (i : Nat) (g : Channel → Channel) :
    (s.channelBecomes i g).host = s.host := rfl
@[simp] theorem State.channelBecomes_results (i : Nat) (g : Channel → Channel) :
    (s.channelBecomes i g).results = s.results := rfl
@[simp] theorem State.channelBecomes_events (i : Nat) (g : Channel → Channel) :
    (s.channelBecomes i g).events = s.events := rfl

@[simp] theorem State.answered_pool (ws : List Word) : (s.answered ws).pool = s.pool := rfl
@[simp] theorem State.answered_sampleRate (ws : List Word) : (s.answered ws).sampleRate = s.sampleRate := rfl
@[simp] theorem State.answered_running (ws : List Word) : (s.answered ws).running = s.running := rfl
@[simp] theorem State.answered_setupDone (ws : List Word) : (s.answered ws).setupDone = s.setupDone := rfl
@[simp] theorem State.answered_audioStartTime (ws : List Word) :
    (s.answered ws).audioStartTime = s.audioStartTime := rfl
@[simp] theorem State.answered_level (ws : List Word) : (s.answered ws).level = s.level := rfl
@[simp] theorem State.answered_snap (ws : List Word) : (s.answered ws).snap = s.snap := rfl
@[simp] theorem State.answered_snapLen (ws : List Word) : (s.answered ws).snapLen = s.snapLen := rfl
@[simp] theorem State.answered_fault (ws : List Word) : (s.answered ws).fault = s.fault := rfl
@[simp] theorem State.answered_inFlight (ws : List Word) : (s.answered ws).inFlight = s.inFlight := rfl
@[simp] theorem State.answered_params (ws : List Word) : (s.answered ws).params = s.params := rfl
@[simp] theorem State.answered_host (ws : List Word) : (s.answered ws).host = s.host := rfl
@[simp] theorem State.answered_results (ws : List Word) : (s.answered ws).results = s.results ++ ws := rfl
@[simp] theorem State.answered_events (ws : List Word) : (s.answered ws).events = s.events := rfl

end Sys2Proof.Machine
end

