-- ==== Sys2Proof/Laws/Ops.lean ====
section
/-! SUPPORT. What the shared operations over the pool and the registers can do: one atomic write, a list of writes, and
the reads of one channel. -/

namespace Sys2Proof.Machine

/-! ### One write -/

/-- A write changes a register or the pool: nothing else can change. -/
theorem State.put_frame (s : State) (w : Write) :
    s.put w = { s with
      pool := (s.put w).pool, sampleRate := (s.put w).sampleRate, running := (s.put w).running
      setupDone := (s.put w).setupDone, audioStartTime := (s.put w).audioStartTime
      snap := (s.put w).snap, snapLen := (s.put w).snapLen } := by
  cases w <;> rfl

@[simp] theorem State.put_level (s : State) (w : Write) : (s.put w).level = s.level := by cases w <;> rfl
@[simp] theorem State.put_fault (s : State) (w : Write) : (s.put w).fault = s.fault := by cases w <;> rfl
@[simp] theorem State.put_inFlight (s : State) (w : Write) : (s.put w).inFlight = s.inFlight := by cases w <;> rfl
@[simp] theorem State.put_params (s : State) (w : Write) : (s.put w).params = s.params := by cases w <;> rfl
@[simp] theorem State.put_host (s : State) (w : Write) : (s.put w).host = s.host := by cases w <;> rfl
@[simp] theorem State.put_results (s : State) (w : Write) : (s.put w).results = s.results := by cases w <;> rfl
@[simp] theorem State.put_events (s : State) (w : Write) : (s.put w).events = s.events := by cases w <;> rfl

/-- R21: no write grows or shrinks the pool. -/
@[simp] theorem State.put_pool_length (s : State) (w : Write) : (s.put w).pool.length = s.pool.length := by
  cases w <;> simp [State.put]

@[simp] theorem State.put_channel_pool (s : State) (i : Nat) (w : FieldWrite) :
    (s.put (.channel i w)).pool = s.pool.modify i w.apply := rfl

/-- A write that is not to a channel leaves the pool as it is. -/
theorem State.put_pool_of_global (s : State) (w : Write) (h : ∀ i f, w ≠ .channel i f) : (s.put w).pool = s.pool := by
  cases w <;> first | rfl | exact absurd rfl (h _ _)

/-- A write that is not SETUP's leaves SETUP's registers as they are. -/
theorem State.put_of_not_ofSetup (s : State) (w : Write) (h : w.ofSetup = false) :
    (s.put w).sampleRate = s.sampleRate ∧ (s.put w).running = s.running ∧ (s.put w).setupDone = s.setupDone ∧
      (s.put w).audioStartTime = s.audioStartTime := by
  cases w <;> first | exact ⟨rfl, rfl, rfl, rfl⟩ | cases h

/-! ### A list of writes -/

@[simp] theorem State.putAll_nil (s : State) : s.putAll [] = s := rfl

@[simp] theorem State.putAll_cons (s : State) (w : Write) (ws : List Write) :
    s.putAll (w :: ws) = (s.put w).putAll ws := rfl

theorem State.putAll_append (s : State) (vs ws : List Write) : s.putAll (vs ++ ws) = (s.putAll vs).putAll ws := by
  simp [State.putAll, List.foldl_append]

/-- What single writes keep, a list of writes keeps. -/
theorem State.putAll_keeps {α : Type} (p : State → α) (h : ∀ s w, p (State.put s w) = p s) (s : State)
    (ws : List Write) : p (s.putAll ws) = p s := by
  induction ws generalizing s with
  | nil => rfl
  | cons w ws ih => rw [State.putAll_cons, ih, h]

@[simp] theorem State.putAll_level (s : State) (ws : List Write) : (s.putAll ws).level = s.level :=
  putAll_keeps (·.level) put_level s ws
@[simp] theorem State.putAll_fault (s : State) (ws : List Write) : (s.putAll ws).fault = s.fault :=
  putAll_keeps (·.fault) put_fault s ws
@[simp] theorem State.putAll_inFlight (s : State) (ws : List Write) : (s.putAll ws).inFlight = s.inFlight :=
  putAll_keeps (·.inFlight) put_inFlight s ws
@[simp] theorem State.putAll_params (s : State) (ws : List Write) : (s.putAll ws).params = s.params :=
  putAll_keeps (·.params) put_params s ws
@[simp] theorem State.putAll_host (s : State) (ws : List Write) : (s.putAll ws).host = s.host :=
  putAll_keeps (·.host) put_host s ws
@[simp] theorem State.putAll_results (s : State) (ws : List Write) : (s.putAll ws).results = s.results :=
  putAll_keeps (·.results) put_results s ws
@[simp] theorem State.putAll_events (s : State) (ws : List Write) : (s.putAll ws).events = s.events :=
  putAll_keeps (·.events) put_events s ws
@[simp] theorem State.putAll_pool_length (s : State) (ws : List Write) : (s.putAll ws).pool.length = s.pool.length :=
  putAll_keeps (·.pool.length) put_pool_length s ws

/-- Two changes of one channel are one change of it. -/
theorem modify_modify_same (l : List Channel) (i : Nat) (f g : Channel → Channel) :
    (l.modify i f).modify i g = l.modify i fun c => g (f c) := by
  apply List.ext_getElem?
  intro j
  simp only [List.getElem?_modify]
  cases l[j]? <;> by_cases hj : i = j <;> simp [hj]

/-- A change of one channel that changes nothing. -/
theorem modify_same (l : List Channel) (i : Nat) : (l.modify i fun c => c) = l := by
  apply List.ext_getElem?
  intro j
  simp only [List.getElem?_modify]
  cases l[j]? <;> by_cases hj : i = j <;> simp [hj]

/-- Writes to one channel, done one after the other, make one change of that channel. -/
theorem State.putAll_onChannel (s : State) (i : Nat) (fs : List FieldWrite) :
    s.putAll (onChannel i fs) = s.channelBecomes i fun c => fs.foldl (fun c f => f.apply c) c := by
  induction fs generalizing s with
  | nil => simp [onChannel, State.channelBecomes, modify_same]
  | cons f fs ih =>
    have h := ih (s.put (.channel i f))
    simp only [onChannel] at h
    simp only [onChannel, List.map_cons, State.putAll_cons, h, List.foldl_cons]
    simp only [State.channelBecomes, State.put, modify_modify_same]

/-- R120, R121: `freeFields` on a channel. -/
@[simp] theorem freeFields_fold (c : Channel) :
    freeFields.foldl (fun c f => f.apply c) c = { c with active := false, scheduled := false } := rfl

/-- R122: `cancelFields` on a channel. -/
@[simp] theorem cancelFields_fold (c : Channel) :
    cancelFields.foldl (fun c f => f.apply c) c = { c with scheduled := false } := rfl

/-- R123: `promoteFields` on a channel. -/
@[simp] theorem promoteFields_fold (c : Channel) :
    promoteFields.foldl (fun c f => f.apply c) c =
      { c with phase := 0, samplesPlayed := 0, envelope := 0, active := true, scheduled := false } := rfl

/-- R111: `clearFields` on a channel. -/
@[simp] theorem clearFields_fold (c : Channel) : clearFields.foldl (fun c f => f.apply c) c = Channel.reset := rfl

/-- R117: `armNow` on a channel keeps its `start_time`. -/
@[simp] theorem armNow_fold (inc : Word) (vol : Byte) (dur : Word) (c : Channel) :
    (armNow inc vol dur).foldl (fun c f => f.apply c) c =
      { c with
        phaseIncrement := inc, amplitude := vol, durationSamples := dur, phase := 0, samplesPlayed := 0
        envelope := 0, scheduled := false, active := true } := rfl

/-- R116: `armDelayed` on a channel. -/
@[simp] theorem armDelayed_fold (inc : Word) (vol : Byte) (dur : Word) (st : Time) (c : Channel) :
    (armDelayed inc vol dur st).foldl (fun c f => f.apply c) c =
      { phaseIncrement := inc, amplitude := vol, durationSamples := dur, startTime := st, phase := 0
        samplesPlayed := 0, envelope := 0, active := false, scheduled := true } := rfl

/-- Two writes to different fields of a channel, in either order. -/
theorem FieldWrite.apply_comm (a b : FieldWrite) (h : a.field ≠ b.field) (c : Channel) :
    a.apply (b.apply c) = b.apply (a.apply c) := by
  cases a <;> cases b <;> first | rfl | exact absurd rfl h

/-- Two writes to different places, neither of them to SNAP or SNAP_LEN, in either order. -/
theorem State.put_comm (s : State) (a b : Write) (h : a.place ≠ b.place)
    (ha : a.place.1 = 0 → a.place.2 < 5) (hb : b.place.1 = 0 → b.place.2 < 5) :
    (s.put a).put b = (s.put b).put a := by
  cases a <;> cases b <;>
    first
    | rfl
    | exact absurd rfl h
    | exact absurd (ha rfl) (by simp [Write.place] <;> omega)
    | exact absurd (hb rfl) (by simp [Write.place] <;> omega)
    | skip
  case channel.channel i f j g =>
    simp only [State.put]
    congr 1
    apply List.ext_getElem?
    intro k
    simp only [List.getElem?_modify]
    cases s.pool[k]? with
    | none => by_cases hi : i = k <;> by_cases hj : j = k <;> simp [hi, hj]
    | some c =>
      by_cases hi : i = k <;> by_cases hj : j = k <;> simp [hi, hj]
      subst hi hj
      exact FieldWrite.apply_comm g f (fun e => h (by simp [Write.place, e])) c

/-- R66: a write set may be done in any order: its writes go to different places, none of them SNAP or SNAP_LEN. -/
theorem State.putAll_perm (s : State) {vs ws : List Write} (hp : vs.Perm ws)
    (hd : (vs.map Write.place).Nodup) (hs : ∀ w ∈ vs, w.place.1 = 0 → w.place.2 < 5) :
    s.putAll vs = s.putAll ws := by
  induction hp generalizing s with
  | nil => rfl
  | cons w _ ih =>
    simp only [List.map_cons, List.nodup_cons] at hd
    exact ih _ hd.2 fun v hv => hs v (List.mem_cons_of_mem _ hv)
  | swap a b l =>
    simp only [List.map_cons, List.nodup_cons, List.mem_cons, not_or] at hd
    rw [State.putAll_cons, State.putAll_cons, State.putAll_cons, State.putAll_cons,
      State.put_comm s b a hd.1.1 (hs b (by simp)) (hs a (by simp))]
  | trans h₁ _ ih₁ ih₂ =>
    rw [ih₁ s hd hs]
    exact ih₂ s ((h₁.map Write.place).nodup_iff.mp hd) fun w hw => hs w (h₁.mem_iff.mpr hw)

/-! ### HOST's answers and CH operands -/

/-- 10_state.md R36: the first of HOST's answers to `now()` from here on is the one a question gets now. -/
@[simp] theorem HostInputs.nowAt_zero (s : State) : s.host.nowAt 0 = s.nowAnswer := by
  unfold HostInputs.nowAt State.nowAnswer
  cases s.host.clock <;> rfl

/-- 10_state.md R36: once an answer is taken, the answers from then on are those that were to come after it. -/
@[simp] theorem HostInputs.nowAt_taken (s : State) (k : Nat) : s.nowTaken.host.nowAt k = s.host.nowAt (k + 1) := by
  unfold HostInputs.nowAt State.nowTaken
  simp only
  cases hc : s.host.clock with
  | nil => simp [clockAfter, Nat.add_comm, Nat.add_left_comm]
  | cons a ts =>
    cases ts with
    | nil => cases k <;> simp [clockAfter]
    | cons b ts =>
      have h : (b :: ts).getLastD a = ts.getLastD b := by cases ts <;> rfl
      simp only [clockAfter, h, List.getD_cons_succ]

/-- The answers to come depend on HOST's clock script and the number of answers given alone. -/
theorem HostInputs.nowAt_congr {g h : HostInputs} (hc : g.clock = h.clock) (hr : g.clockReads = h.clockReads) (k : Nat) :
    g.nowAt k = h.nowAt k := by
  simp only [HostInputs.nowAt, hc, hr]

/-- 20_memory.md R66: WRITE_ORDER draws one of the writes that are left. -/
theorem State.orderAnswer_lt (s : State) {n : Nat} (h : 0 < n) : s.orderAnswer n < n := Nat.mod_lt _ h

/-- R90: a CH operand in range. -/
theorem channelOf_of_lt {ch : Word} {c : Nat} (h : ch.toNat < c) : channelOf ch c = some ch.toNat := by
  simp [channelOf, zext, h]

/-- R90: a CH operand out of range. -/
theorem channelOf_of_ge {ch : Word} {c : Nat} (h : c ≤ ch.toNat) : channelOf ch c = none := by
  simp [channelOf, zext, Nat.not_lt.mpr h]

/-- R60: a read of `active` inside the pool. -/
theorem State.activeAt_of_getElem? {s : State} {i : Nat} {c : Channel} (h : s.pool[i]? = some c) :
    s.activeAt i = c.active := by simp [State.activeAt, h]

/-- R60: a read of `scheduled` inside the pool. -/
theorem State.scheduledAt_of_getElem? {s : State} {i : Nat} {c : Channel} (h : s.pool[i]? = some c) :
    s.scheduledAt i = c.scheduled := by simp [State.scheduledAt, h]

/-- R60: a read of `start_time` inside the pool. -/
theorem State.startTimeAt_of_getElem? {s : State} {i : Nat} {c : Channel} (h : s.pool[i]? = some c) :
    s.startTimeAt i = c.startTime := by simp [State.startTimeAt, h]

end Sys2Proof.Machine
end

