-- ==== Sys2Proof/Laws/Engine.lean ====
section
/-! SUPPORT. What a step of a command can do: one lemma per shared operation of Machine/Engine.lean, and the induction
that carries a fact from single steps to a whole command under `per_command`. -/

namespace Sys2Proof.Machine

@[simp] theorem State.worksOn_eq (s : State) (w : Work) :
    s.worksOn w = s.goesOn { work := w, writes := [], result := [] } := rfl
@[simp] theorem State.writesThen_eq (s : State) (ws : List Write) (w : Work) :
    s.writesThen ws w = s.goesOn { work := w, writes := ws, result := [] } := rfl
@[simp] theorem State.finishesWith_eq (s : State) (ws : List Write) (r : List Word) :
    s.finishesWith ws r = s.goesOn { work := .deliver, writes := ws, result := r } := rfl
@[simp] theorem State.goesOn_goesOn (s : State) (f g : InFlight) : (s.goesOn f).goesOn g = s.goesOn g := rfl

/-! ### Reads -/

/-- A read writes nothing: what a step without a pending write changes is the command in flight, HOST's clock and install
answers, the result words, the events, and FAULT where a check fails. -/
theorem State.workStep_frame (s : State) (f : InFlight) :
    s.workStep f = { s with
      fault := (s.workStep f).fault
      inFlight := (s.workStep f).inFlight
      host := { s.host with
        clock := (s.workStep f).host.clock, clockReads := (s.workStep f).host.clockReads
        install := (s.workStep f).host.install, installReads := (s.workStep f).host.installReads }
      results := (s.workStep f).results
      events := (s.workStep f).events } := by
  obtain ⟨w, ws, r⟩ := f
  cases w with
  | scan j g => simp only [State.workStep, State.scanStep]; cases g <;> split <;> (try split) <;> rfl
  | scanScheduled j g => simp only [State.workStep, State.scanScheduledStep]; cases g <;> split <;> rfl
  | setupInstall sr => simp only [State.workStep, State.setupInstallStep]; split <;> rfl
  | setupCheck sr => simp only [State.workStep, State.setupCheckStep]; split <;> rfl
  | playCheck vol freq dur delay => simp only [State.workStep, State.playCheckStep]; split <;> rfl
  | playChCheck vol ch freq dur delay =>
    simp only [State.workStep, State.playChCheckStep]; split <;> (try split) <;> rfl
  | configure i vol freq dur delay => simp only [State.workStep, State.configure]; split <;> rfl
  | freeFrom i => simp only [State.workStep, State.freeStep]; split <;> rfl
  | cancelRead i => simp only [State.workStep, State.cancelStep]; split <;> rfl
  | updateScan t i => simp only [State.workStep, State.updateScanStep]; split <;> (try split) <;> rfl
  | updateStart t i => simp only [State.workStep, State.updateStartStep]; split <;> rfl
  | _ => rfl

@[simp] theorem State.workStep_pool (s : State) (f : InFlight) : (s.workStep f).pool = s.pool := by
  rw [State.workStep_frame]
@[simp] theorem State.workStep_sampleRate (s : State) (f : InFlight) : (s.workStep f).sampleRate = s.sampleRate := by
  rw [State.workStep_frame]
@[simp] theorem State.workStep_running (s : State) (f : InFlight) : (s.workStep f).running = s.running := by
  rw [State.workStep_frame]
@[simp] theorem State.workStep_setupDone (s : State) (f : InFlight) : (s.workStep f).setupDone = s.setupDone := by
  rw [State.workStep_frame]
@[simp] theorem State.workStep_audioStartTime (s : State) (f : InFlight) :
    (s.workStep f).audioStartTime = s.audioStartTime := by rw [State.workStep_frame]
@[simp] theorem State.workStep_level (s : State) (f : InFlight) : (s.workStep f).level = s.level := by
  rw [State.workStep_frame]
@[simp] theorem State.workStep_snap (s : State) (f : InFlight) : (s.workStep f).snap = s.snap := by
  rw [State.workStep_frame]
@[simp] theorem State.workStep_snapLen (s : State) (f : InFlight) : (s.workStep f).snapLen = s.snapLen := by
  rw [State.workStep_frame]
@[simp] theorem State.workStep_params (s : State) (f : InFlight) : (s.workStep f).params = s.params := by
  rw [State.workStep_frame]

/-- The events of a read: at most Diag(SETUP_FAILED), at SETUP's install (R111). -/
theorem State.workStep_events (s : State) (f : InFlight) :
    (s.workStep f).events = s.events ∨ (s.workStep f).events = s.events ++ [.diagSetupFailed] := by
  obtain ⟨w, ws, r⟩ := f
  cases w with
  | scan j g =>
    left; simp only [State.workStep, State.scanStep]; cases g <;> split <;> (try split) <;> rfl
  | scanScheduled j g => left; simp only [State.workStep, State.scanScheduledStep]; cases g <;> split <;> rfl
  | setupInstall sr =>
    simp only [State.workStep, State.setupInstallStep]; split
    · left; rfl
    · right; rfl
  | setupCheck sr => left; simp only [State.workStep, State.setupCheckStep]; split <;> rfl
  | playCheck vol freq dur delay => left; simp only [State.workStep, State.playCheckStep]; split <;> rfl
  | playChCheck vol ch freq dur delay =>
    left; simp only [State.workStep, State.playChCheckStep]; split <;> (try split) <;> rfl
  | configure i vol freq dur delay => left; simp only [State.workStep, State.configure]; split <;> rfl
  | freeFrom i => left; simp only [State.workStep, State.freeStep]; split <;> rfl
  | cancelRead i => left; simp only [State.workStep, State.cancelStep]; split <;> rfl
  | updateScan t i => left; simp only [State.workStep, State.updateScanStep]; split <;> (try split) <;> rfl
  | updateStart t i => left; simp only [State.workStep, State.updateStartStep]; split <;> rfl
  | _ => left; rfl

/-- R224, R225: the checks that a read of the command in flight may fail, each with the command word it records. -/
inductive CheckFails (s : State) : Work → FaultCode → Word → Prop
  | setup (sr : Word) : s.setupDone = true → CheckFails s (.setupCheck sr) .repeatedSetup (commandWord .setup 0)
  | play (vol : Byte) (freq dur delay : Word) :
    s.sampleRate = 0 → CheckFails s (.playCheck vol freq dur delay) .unconfigured (commandWord .play vol)
  | playCh (vol : Byte) (ch freq dur delay : Word) :
    s.sampleRate = 0 → CheckFails s (.playChCheck vol ch freq dur delay) .unconfigured (commandWord .playCh vol)

/-- R228: a read leaves FAULT, or it is a check that fails and does nothing but record its fault. -/
theorem State.workStep_fault_cases (s : State) (f : InFlight) :
    (s.workStep f).fault = s.fault ∨
      ∃ code word, CheckFails s f.work code word ∧ s.workStep f = s.raiseFault code word := by
  obtain ⟨w, ws, r⟩ := f
  cases w with
  | setupCheck sr =>
    simp only [State.workStep, State.setupCheckStep]; split
    · next h => exact .inr ⟨_, _, .setup sr h, rfl⟩
    · left; rfl
  | playCheck vol freq dur delay =>
    simp only [State.workStep, State.playCheckStep]; split
    · next h => exact .inr ⟨_, _, .play vol freq dur delay h, rfl⟩
    · left; rfl
  | playChCheck vol ch freq dur delay =>
    simp only [State.workStep, State.playChCheckStep]; split
    · next h => exact .inr ⟨_, _, .playCh vol ch freq dur delay h, rfl⟩
    · left; split <;> rfl
  | scan j g => left; simp only [State.workStep, State.scanStep]; cases g <;> split <;> (try split) <;> rfl
  | scanScheduled j g => left; simp only [State.workStep, State.scanScheduledStep]; cases g <;> split <;> rfl
  | setupInstall sr => left; simp only [State.workStep, State.setupInstallStep]; split <;> rfl
  | configure i vol freq dur delay => left; simp only [State.workStep, State.configure]; split <;> rfl
  | freeFrom i => left; simp only [State.workStep, State.freeStep]; split <;> rfl
  | cancelRead i => left; simp only [State.workStep, State.cancelStep]; split <;> rfl
  | updateScan t i => left; simp only [State.workStep, State.updateScanStep]; split <;> (try split) <;> rfl
  | updateStart t i => left; simp only [State.workStep, State.updateStartStep]; split <;> rfl
  | _ => left; rfl

/-- The write set that a step of the command sets up. -/
theorem State.workStep_pending (s : State) (f : InFlight) :
    (s.workStep f).pending = [] ∨
    (∃ i fs, (s.workStep f).pending = onChannel i fs ∧
      (fs = freeFields ∨ fs = cancelFields ∨ fs = promoteFields ∨ (∃ inc vol dur, fs = armNow inc vol dur) ∨
        ∃ inc vol dur st, fs = armDelayed inc vol dur st)) ∨
    (∃ n v, (s.workStep f).pending = [.snapEntry n v]) ∨ (∃ v, (s.workStep f).pending = [.snapLen v]) ∨
    (∃ sr, f.work = .setupNow sr ∧ (s.workStep f).pending = setupWrites s.channels sr s.nowAnswer) ∨
    (∃ sr, f.work = .setupInstall sr ∧ (s.workStep f).pending = [.running (s.installAnswer && sr != 0#32)]) := by
  obtain ⟨w, ws, r⟩ := f
  cases w with
  | setupNow sr => exact .inr (.inr (.inr (.inr (.inl ⟨sr, rfl, rfl⟩))))
  | setupInstall sr =>
    refine .inr (.inr (.inr (.inr (.inr ⟨sr, rfl, ?_⟩))))
    simp only [State.workStep, State.setupInstallStep]
    split
    · next h => rw [h]; rfl
    · next h => rw [Bool.not_eq_true] at h; rw [h]; rfl
  | scan j g =>
    simp only [State.workStep, State.scanStep]
    cases g with
    | rebuild n =>
      split
      · split
        · exact .inr (.inr (.inl ⟨n, _, rfl⟩))
        · exact .inl rfl
      · exact .inr (.inr (.inr (.inl ⟨_, rfl⟩)))
    | _ => split <;> (try split) <;> exact .inl rfl
  | scanScheduled j g =>
    simp only [State.workStep, State.scanScheduledStep]
    cases g with
    | rebuild n =>
      split
      · exact .inr (.inr (.inl ⟨n, _, rfl⟩))
      · exact .inl rfl
    | _ => split <;> exact .inl rfl
  | configure i vol freq dur delay =>
    simp only [State.workStep, State.configure]
    split
    · exact .inl rfl
    · exact .inr (.inl ⟨i, _, rfl, .inr (.inr (.inr (.inl ⟨_, _, _, rfl⟩)))⟩)
  | configureNow i vol inc dur delay =>
    exact .inr (.inl ⟨i, _, rfl, .inr (.inr (.inr (.inr ⟨_, _, _, _, rfl⟩)))⟩)
  | setupCheck sr => left; simp only [State.workStep, State.setupCheckStep]; split <;> rfl
  | playCheck vol freq dur delay => left; simp only [State.workStep, State.playCheckStep]; split <;> rfl
  | playChCheck vol ch freq dur delay =>
    left; simp only [State.workStep, State.playChCheckStep]; split <;> (try split) <;> rfl
  | freeFrom i =>
    simp only [State.workStep, State.freeStep]
    split
    · exact .inr (.inl ⟨i, _, rfl, .inl rfl⟩)
    · exact .inl rfl
  | cancelRead i =>
    simp only [State.workStep, State.cancelStep]
    split
    · exact .inr (.inl ⟨i, _, rfl, .inr (.inl rfl)⟩)
    · exact .inl rfl
  | updateScan t i => left; simp only [State.workStep, State.updateScanStep]; split <;> (try split) <;> rfl
  | updateStart t i =>
    simp only [State.workStep, State.updateStartStep]
    split
    · exact .inr (.inl ⟨i, _, rfl, .inr (.inr (.inl rfl))⟩)
    · exact .inl rfl
  | _ => exact .inl rfl

/-! ### Writes -/

/-- Taking one entry out of a list leaves the others. -/
theorem getElem_cons_eraseIdx_perm {α : Type} (l : List α) (k : Nat) (h : k < l.length) :
    (l[k] :: l.eraseIdx k).Perm l := by
  induction l generalizing k with
  | nil => cases h
  | cons a l ih =>
    cases k with
    | zero => exact .refl _
    | succ k => exact (List.Perm.swap _ _ _).trans ((ih k (Nat.lt_of_succ_lt_succ h)).cons a)

/-- R66: a write step does one of the pending writes and leaves the others pending. -/
theorem State.advance_of_writes (s : State) (f : InFlight) (h : f.writes ≠ []) :
    ∃ w vs, f.writes.Perm (w :: vs) ∧
      s.advance f = (s.orderTaken.put w).goesOn { f with writes := vs } := by
  obtain ⟨wk, ws, r⟩ := f
  cases ws with
  | nil => exact absurd rfl h
  | cons w ws =>
    have hk : s.orderAnswer (ws.length + 1) < (w :: ws).length := by
      simpa using s.orderAnswer_lt (Nat.succ_pos _)
    refine ⟨(w :: ws)[s.orderAnswer (ws.length + 1)], (w :: ws).eraseIdx (s.orderAnswer (ws.length + 1)), ?_, ?_⟩
    · exact (getElem_cons_eraseIdx_perm _ _ hk).symm
    · simp only [State.advance, State.writeStep, List.getD_eq_getElem?_getD, List.getElem?_eq_getElem hk,
        Option.getD_some]

/-- With no write pending, a step of the command is its next read. -/
theorem State.advance_of_no_writes (s : State) (f : InFlight) (h : f.writes = []) : s.advance f = s.workStep f := by
  simp [State.advance, h]

@[simp] theorem State.advance_params (s : State) (f : InFlight) : (s.advance f).params = s.params := by
  by_cases h : f.writes = []
  · rw [s.advance_of_no_writes f h, State.workStep_params]
  · obtain ⟨w, vs, _, he⟩ := s.advance_of_writes f h
    rw [he]; simp

@[simp] theorem State.advance_pool_length (s : State) (f : InFlight) :
    (s.advance f).pool.length = s.pool.length := by
  by_cases h : f.writes = []
  · rw [s.advance_of_no_writes f h, State.workStep_pool]
  · obtain ⟨w, vs, _, he⟩ := s.advance_of_writes f h
    rw [he]; simp

/-- R228: a step of the command in flight leaves FAULT, or it is a check that fails and does nothing but record its
fault. -/
theorem State.advance_fault_cases (s : State) (f : InFlight) :
    (s.advance f).fault = s.fault ∨
      ∃ code word, f.writes = [] ∧ CheckFails s f.work code word ∧ s.advance f = s.raiseFault code word := by
  by_cases h : f.writes = []
  · rw [s.advance_of_no_writes f h]
    obtain hf | ⟨code, word, hc, he⟩ := s.workStep_fault_cases f
    · exact .inl hf
    · exact .inr ⟨code, word, h, hc, he⟩
  · obtain ⟨w, vs, _, he⟩ := s.advance_of_writes f h
    rw [he]; simp

@[simp] theorem State.advance_level (s : State) (f : InFlight) : (s.advance f).level = s.level := by
  by_cases h : f.writes = []
  · rw [s.advance_of_no_writes f h, State.workStep_level]
  · obtain ⟨w, vs, _, he⟩ := s.advance_of_writes f h
    rw [he]; simp

/-! ### Whole commands -/

theorem State.finish_zero (s : State) : s.finish 0 = s := rfl

/-- A state with no command in flight is at the end already. -/
theorem State.finish_of_idle (n : Nat) (s : State) (h : s.inFlight = none) : s.finish n = s := by
  cases n with
  | zero => rfl
  | succ n => simp [State.finish, h]

/-- With no write pending, the next of a command's steps is a read. -/
theorem State.finish_read (n : Nat) (s : State) (f : InFlight) (h : s.inFlight = some f) (hw : f.writes = []) :
    s.finish (n + 1) = (s.workStep f).finish n := by
  simp [State.finish, h, hw]

/-- With writes pending, they are all done next. -/
theorem State.finish_flush (n : Nat) (s : State) (f : InFlight) (h : s.inFlight = some f) (hw : f.writes ≠ []) :
    s.finish (n + 1) = (s.flush f).finish n := by
  cases hf : f.writes with
  | nil => exact absurd hf hw
  | cons w ws => simp [State.finish, h, hf]

/-- What a command's reads and its write sets keep, a whole command keeps. -/
theorem State.finish_keeps {P : State → Prop}
    (hr : ∀ (s : State) (f : InFlight), P s → s.inFlight = some f → f.writes = [] → P (s.workStep f))
    (hw : ∀ (s : State) (f : InFlight), P s → s.inFlight = some f → f.writes ≠ [] → P (s.flush f)) (n : Nat) (s : State)
    (h : P s) : P (s.finish n) := by
  induction n generalizing s with
  | zero => exact h
  | succ n ih =>
    cases hf : s.inFlight with
    | none => rw [State.finish_of_idle _ s hf]; exact h
    | some f =>
      by_cases hn : f.writes = []
      · rw [State.finish_read n s f hf hn]; exact ih _ (hr s f h hf hn)
      · rw [State.finish_flush n s f hf hn]; exact ih _ (hw s f h hf hn)

/-- A part of the state that reads and write sets keep, a whole command keeps. -/
theorem State.finish_keeps_part {α : Type} (p : State → α) (hr : ∀ s f, p (State.workStep s f) = p s)
    (hw : ∀ s f, p (State.flush s f) = p s) (n : Nat) (s : State) : p (s.finish n) = p s :=
  State.finish_keeps (P := fun t => p t = p s) (fun t f h _ _ => (hr t f).trans h)
    (fun t f h _ _ => (hw t f).trans h) n s rfl

@[simp] theorem State.flush_params (s : State) (f : InFlight) : (s.flush f).params = s.params := by
  simp [State.flush]
@[simp] theorem State.flush_fault (s : State) (f : InFlight) : (s.flush f).fault = s.fault := by
  simp [State.flush]
@[simp] theorem State.flush_level (s : State) (f : InFlight) : (s.flush f).level = s.level := by
  simp [State.flush]
@[simp] theorem State.flush_events (s : State) (f : InFlight) : (s.flush f).events = s.events := by
  simp [State.flush]
@[simp] theorem State.flush_pool_length (s : State) (f : InFlight) : (s.flush f).pool.length = s.pool.length := by
  simp [State.flush]

@[simp] theorem State.finish_params (n : Nat) (s : State) : (s.finish n).params = s.params :=
  State.finish_keeps_part (·.params) State.workStep_params State.flush_params n s
@[simp] theorem State.finish_level (n : Nat) (s : State) : (s.finish n).level = s.level :=
  State.finish_keeps_part (·.level) State.workStep_level State.flush_level n s
@[simp] theorem State.finish_pool_length (n : Nat) (s : State) : (s.finish n).pool.length = s.pool.length :=
  State.finish_keeps_part (·.pool.length) (fun s f => by rw [State.workStep_pool]) State.flush_pool_length n s

/-- R110: a command starts in flight under `per_field`, and runs to its end under `per_command`. -/
theorem State.launch_cases (s : State) (f : InFlight) :
    (s.params.atomicity = .perField ∧ s.launch f = s.goesOn f) ∨
    (s.params.atomicity = .perCommand ∧ s.launch f = (s.goesOn f).finish (finishFuel s.channels)) := by
  unfold State.launch
  cases s.params.atomicity
  · exact .inl ⟨rfl, rfl⟩
  · exact .inr ⟨rfl, rfl⟩

@[simp] theorem State.launch_params (s : State) (f : InFlight) : (s.launch f).params = s.params := by
  obtain ⟨_, h⟩ | ⟨_, h⟩ := s.launch_cases f <;> simp [h]
@[simp] theorem State.launch_level (s : State) (f : InFlight) : (s.launch f).level = s.level := by
  obtain ⟨_, h⟩ | ⟨_, h⟩ := s.launch_cases f <;> simp [h]
@[simp] theorem State.launch_pool_length (s : State) (f : InFlight) :
    (s.launch f).pool.length = s.pool.length := by
  obtain ⟨_, h⟩ | ⟨_, h⟩ := s.launch_cases f <;> simp [h]

/-! ### Instructions and steps -/

/-- How a command first stands in flight, for a pool of `c` channels (40_scheduler.md, 42_query.md): `none` for TICK,
which is no command. -/
def firstInFlight (c : Nat) : Instr → Option InFlight
  | .setup sr _ _ => some ⟨.setupCheck sr, [], []⟩
  | .play vol freq dur delay => some ⟨.playCheck vol freq dur delay, [], []⟩
  | .playCh vol ch freq dur delay => some ⟨.playChCheck vol ch freq dur delay, [], []⟩
  | .stop ch => some (if ch.toNat < c then ⟨.deliver, onChannel ch.toNat freeFields, []⟩ else ⟨.deliver, [], []⟩)
  | .stopAll => some ⟨.freeFrom 0, [], []⟩
  | .cancel ch => some (if ch.toNat < c then ⟨.cancelRead ch.toNat, [], []⟩ else ⟨.deliver, [], []⟩)
  | .update => some ⟨.updateNow, [], []⟩
  | .findFree => some ⟨.scan 0 .findFree, [], []⟩
  | .isActive ch => some (if ch.toNat < c then ⟨.isActiveRead ch.toNat, [], []⟩ else ⟨.deliver, [], [0#32]⟩)
  | .activeCount => some ⟨.scan 0 (.countBusy 0), [], []⟩
  | .playingCount => some ⟨.scan 0 (.countActive 0), [], []⟩
  | .maxChannels => some ⟨.deliver, [], [countWord c]⟩
  | .startTime => some ⟨.startTimeRead, [], []⟩
  | .rebuildList => some ⟨.scan 0 (.rebuild 0), [], []⟩
  | .tick => none

/-- All that an instruction can do: TICK ticks, and every command starts. -/
theorem exec_cases (i : Instr) (s : State) :
    (i = .tick ∧ exec i s = .next s.ticked) ∨
    (∃ f, firstInFlight s.channels i = some f ∧ exec i s = .next (s.launch f)) := by
  cases i with
  | stop ch =>
    refine .inr ⟨_, rfl, ?_⟩
    by_cases hc : ch.toNat < s.channels
    · simp [exec, execStop, channelOf_of_lt hc, hc, State.startWrites]
    · simp [exec, execStop, channelOf_of_ge (Nat.le_of_not_lt hc), hc, State.startWrites]
  | cancel ch =>
    refine .inr ⟨_, rfl, ?_⟩
    by_cases hc : ch.toNat < s.channels
    · simp [exec, execCancel, channelOf_of_lt hc, hc, State.startWork]
    · simp [exec, execCancel, channelOf_of_ge (Nat.le_of_not_lt hc), hc, State.startWrites]
  | isActive ch =>
    refine .inr ⟨_, rfl, ?_⟩
    by_cases hc : ch.toNat < s.channels
    · simp [exec, execIsActive, channelOf_of_lt hc, hc, State.startWork]
    · simp [exec, execIsActive, channelOf_of_ge (Nat.le_of_not_lt hc), hc, State.startWrites, boolWord]
  | tick => exact .inl ⟨rfl, rfl⟩
  | _ => exact .inr ⟨_, rfl, rfl⟩

/-- Every instruction takes a next state: none faults as a step and none is refused. -/
theorem exec_next (i : Instr) (s : State) : ∃ t, exec i s = .next t := by
  obtain ⟨_, h⟩ | ⟨_, _, h⟩ := exec_cases i s <;> exact ⟨_, h⟩

/-- All that CMD can do in a step: go on with the command in flight, wait, reject an illegal command word, or start a
command. -/
theorem State.cmdStep_cases (s : State) :
    (∃ f, s.inFlight = some f ∧ s.cmdStep = .next (s.advance f)) ∨
    (s.inFlight = none ∧ s.cmdStep = .next s) ∨
    (s.inFlight = none ∧ ∃ why w rest, fetchCommand s.host.port = .illegal why w rest ∧
      s.cmdStep = .next ((s.withPort rest).raiseFault .illegalCommand w)) ∨
    (s.inFlight = none ∧ ∃ i rest, fetchCommand s.host.port = .command i rest ∧
      s.cmdStep = exec i (s.withPort rest)) := by
  unfold State.cmdStep
  cases hf : s.inFlight with
  | some f => exact .inl ⟨f, rfl, rfl⟩
  | none =>
    simp only [State.startCommand]
    cases h : fetchCommand s.host.port with
    | empty => exact .inr (.inl ⟨trivial, rfl⟩)
    | partialCommand w => exact .inr (.inl ⟨trivial, rfl⟩)
    | illegal why w rest => exact .inr (.inr (.inl ⟨trivial, why, w, rest, rfl, rfl⟩))
    | command i rest => exact .inr (.inr (.inr ⟨trivial, i, rest, rfl, rfl⟩))

/-- All that a step can do: stop at a recorded fault, take a TICK, or let CMD take a step. -/
theorem step_cases (s : State) :
    (∃ r, s.fault = some r ∧ step s = .fault (.recorded r.code)) ∨
    (s.fault = none ∧ s.running = true ∧ s.tickAnswer = true ∧ step s = .next s.tickTaken.ticked) ∨
    (s.fault = none ∧ s.running = true ∧ s.tickAnswer = false ∧ step s = s.tickTaken.cmdStep) ∨
    (s.fault = none ∧ s.running = false ∧ step s = s.cmdStep) := by
  unfold step State.blockStep State.agentStep
  cases hf : s.fault with
  | some r => exact .inl ⟨r, rfl, rfl⟩
  | none =>
    cases hr : s.running with
    | false => exact .inr (.inr (.inr ⟨rfl, rfl, rfl⟩))
    | true =>
      cases ht : s.tickAnswer with
      | true => exact .inr (.inl ⟨rfl, rfl, rfl, rfl⟩)
      | false => exact .inr (.inr (.inl ⟨rfl, rfl, rfl, rfl⟩))

end Sys2Proof.Machine
end

