-- ==== Sys2Proof/Laws/PerInstr.lean ====
section
/-! SUPPORT. Facts of every instruction as syntax, one lemma per constructor. Family EncodedShape: an instruction's words
are one command word that the decoder accepts and as many operand words as its opcode takes (spec/30_encoding.md R80,
R82, R93); TICK has none (R94). -/

namespace Sys2Proof.Laws.EncodedShape

/-- The words of an instruction have the shape its opcode gives them. -/
def Statement (i : Instr) : Prop :=
  match i.opcode? with
  | none => encode i = []
  | some o => ∃ vol ops, encode i = commandWord o vol :: ops ∧ ops.length = o.operandCount ∧
      decodeWord (commandWord o vol) = .ok (o, vol)

theorem setup (sr outPin enPin : Word) : Statement (.setup sr outPin enPin) :=
  ⟨0, _, rfl, rfl, decodeWord_commandWord _ _ (.inr rfl)⟩
theorem play (vol : Byte) (freq dur delay : Word) : Statement (.play vol freq dur delay) :=
  ⟨vol, _, rfl, rfl, decodeWord_commandWord _ _ (.inl rfl)⟩
theorem playCh (vol : Byte) (ch freq dur delay : Word) : Statement (.playCh vol ch freq dur delay) :=
  ⟨vol, _, rfl, rfl, decodeWord_commandWord _ _ (.inl rfl)⟩
theorem stop (ch : Word) : Statement (.stop ch) := ⟨0, _, rfl, rfl, decodeWord_commandWord _ _ (.inr rfl)⟩
theorem stopAll : Statement .stopAll := ⟨0, _, rfl, rfl, decodeWord_commandWord _ _ (.inr rfl)⟩
theorem cancel (ch : Word) : Statement (.cancel ch) := ⟨0, _, rfl, rfl, decodeWord_commandWord _ _ (.inr rfl)⟩
theorem update : Statement .update := ⟨0, _, rfl, rfl, decodeWord_commandWord _ _ (.inr rfl)⟩
theorem findFree : Statement .findFree := ⟨0, _, rfl, rfl, decodeWord_commandWord _ _ (.inr rfl)⟩
theorem isActive (ch : Word) : Statement (.isActive ch) := ⟨0, _, rfl, rfl, decodeWord_commandWord _ _ (.inr rfl)⟩
theorem activeCount : Statement .activeCount := ⟨0, _, rfl, rfl, decodeWord_commandWord _ _ (.inr rfl)⟩
theorem playingCount : Statement .playingCount := ⟨0, _, rfl, rfl, decodeWord_commandWord _ _ (.inr rfl)⟩
theorem maxChannels : Statement .maxChannels := ⟨0, _, rfl, rfl, decodeWord_commandWord _ _ (.inr rfl)⟩
theorem startTime : Statement .startTime := ⟨0, _, rfl, rfl, decodeWord_commandWord _ _ (.inr rfl)⟩
theorem rebuildList : Statement .rebuildList := ⟨0, _, rfl, rfl, decodeWord_commandWord _ _ (.inr rfl)⟩
theorem tick : Statement .tick := rfl

end Sys2Proof.Laws.EncodedShape
end

