-- ==== Sys2Proof/Laws/Run.lean ====
section
/-! SUPPORT. A command run step by step with no TICK between its steps ends where the whole command ends (spec/20_memory.md
R66, R67): WRITE_ORDER's draws are all that differs. -/

namespace Sys2Proof.Machine

/-! ### What WRITE_ORDER and COMMAND_ATOMICITY have no part in -/

@[simp] theorem State.visible_inFlight (s : State) : s.visible.inFlight = s.inFlight := rfl
@[simp] theorem State.visible_pool (s : State) : s.visible.pool = s.pool := rfl
@[simp] theorem State.visible_visible (s : State) : s.visible.visible = s.visible := rfl
@[simp] theorem State.orderTaken_visible (s : State) : s.orderTaken.visible = s.visible := rfl
@[simp] theorem State.goesOn_visible (s : State) (f : InFlight) : (s.goesOn f).visible = s.visible.goesOn f := rfl
@[simp] theorem State.withAtomicity_visible (s : State) (a : Atomicity) : (s.withAtomicity a).visible = s.visible := rfl

@[simp] theorem State.put_visible (s : State) (w : Write) : (s.put w).visible = s.visible.put w := by
  cases w <;> rfl

@[simp] theorem State.putAll_visible (s : State) (ws : List Write) : (s.putAll ws).visible = s.visible.putAll ws := by
  induction ws generalizing s with
  | nil => rfl
  | cons w ws ih => rw [State.putAll_cons, ih, State.put_visible, State.putAll_cons]

@[simp] theorem State.flush_visible (s : State) (f : InFlight) : (s.flush f).visible = s.visible.flush f := by
  simp [State.flush]

/-- A read is the same whatever WRITE_ORDER and COMMAND_ATOMICITY are. -/
@[simp] theorem State.workStep_visible (s : State) (f : InFlight) : (s.workStep f).visible = s.visible.workStep f := by
  obtain ⟨w, ws, r⟩ := f
  cases w with
  | setupInstall sr =>
    simp only [State.workStep, State.setupInstallStep]
    by_cases h : (s.installAnswer && sr != 0#32) = true
    · rw [if_pos h, if_pos (show (s.visible.installAnswer && sr != 0#32) = true from h)]; rfl
    · rw [if_neg h, if_neg (show ¬ (s.visible.installAnswer && sr != 0#32) = true from h)]; rfl
  | scan j g =>
    simp only [State.workStep, State.scanStep]
    by_cases h : j < s.channels
    · rw [if_pos h, if_pos (show j < s.visible.channels from h)]
      by_cases ha : s.activeAt j = true
      · rw [if_pos ha, if_pos (show s.visible.activeAt j = true from ha)]; cases g <;> rfl
      · rw [if_neg ha, if_neg (show ¬ s.visible.activeAt j = true from ha)]; cases g <;> rfl
    · rw [if_neg h, if_neg (show ¬ j < s.visible.channels from h)]; cases g <;> rfl
  | scanScheduled j g =>
    simp only [State.workStep, State.scanScheduledStep]
    by_cases ha : s.scheduledAt j = true
    · rw [if_pos ha, if_pos (show s.visible.scheduledAt j = true from ha)]; cases g <;> rfl
    · rw [if_neg ha, if_neg (show ¬ s.visible.scheduledAt j = true from ha)]; cases g <;> rfl
  | setupCheck sr =>
    simp only [State.workStep, State.setupCheckStep]
    by_cases h : s.setupDone = true
    · rw [if_pos h, if_pos (show s.visible.setupDone = true from h)]; rfl
    · rw [if_neg h, if_neg (show ¬ s.visible.setupDone = true from h)]; rfl
  | playCheck vol freq dur delay =>
    simp only [State.workStep, State.playCheckStep]
    by_cases h : s.sampleRate = 0
    · rw [if_pos h, if_pos (show s.visible.sampleRate = 0 from h)]; rfl
    · rw [if_neg h, if_neg (show ¬ s.visible.sampleRate = 0 from h)]; rfl
  | playChCheck vol ch freq dur delay =>
    simp only [State.workStep, State.playChCheckStep, show s.visible.channels = s.channels from rfl]
    by_cases h : s.sampleRate = 0
    · rw [if_pos h, if_pos (show s.visible.sampleRate = 0 from h)]; rfl
    · rw [if_neg h, if_neg (show ¬ s.visible.sampleRate = 0 from h)]; cases channelOf ch s.channels <;> rfl
  | configure i vol freq dur delay =>
    simp only [State.workStep, State.configure]
    split <;> rfl
  | freeFrom i =>
    simp only [State.workStep, State.freeStep]
    by_cases h : i < s.channels
    · rw [if_pos h, if_pos (show i < s.visible.channels from h)]; rfl
    · rw [if_neg h, if_neg (show ¬ i < s.visible.channels from h)]; rfl
  | cancelRead i =>
    simp only [State.workStep, State.cancelStep]
    by_cases h : s.scheduledAt i = true
    · rw [if_pos h, if_pos (show s.visible.scheduledAt i = true from h)]; rfl
    · rw [if_neg h, if_neg (show ¬ s.visible.scheduledAt i = true from h)]; rfl
  | updateScan t i =>
    simp only [State.workStep, State.updateScanStep]
    by_cases h : i < s.channels
    · rw [if_pos h, if_pos (show i < s.visible.channels from h)]
      by_cases ha : s.scheduledAt i = true
      · rw [if_pos ha, if_pos (show s.visible.scheduledAt i = true from ha)]; rfl
      · rw [if_neg ha, if_neg (show ¬ s.visible.scheduledAt i = true from ha)]; rfl
    · rw [if_neg h, if_neg (show ¬ i < s.visible.channels from h)]; rfl
  | updateStart t i =>
    simp only [State.workStep, State.updateStartStep]
    by_cases h : isDue t (s.startTimeAt i) = true
    · rw [if_pos h, if_pos (show isDue t (s.visible.startTimeAt i) = true from h)]; rfl
    · rw [if_neg h, if_neg (show ¬ isDue t (s.visible.startTimeAt i) = true from h)]; rfl
  | _ => rfl

@[simp] theorem State.finish_visible (n : Nat) (s : State) : (s.finish n).visible = s.visible.finish n := by
  induction n generalizing s with
  | zero => rfl
  | succ n ih =>
    cases hf : s.inFlight with
    | none => rw [State.finish_of_idle _ s hf, State.finish_of_idle _ s.visible hf]
    | some f =>
      by_cases hw : f.writes = []
      · rw [State.finish_read n s f hf hw, ih, State.finish_read n s.visible f hf hw, State.workStep_visible]
      · rw [State.finish_flush n s f hf hw, ih, State.finish_flush n s.visible f hf hw, State.flush_visible]

/-! ### Steps of a command -/

/-- Nothing is left to do where no command is in flight. -/
theorem State.cmdRun_of_idle (n : Nat) (s : State) (h : s.inFlight = none) : s.cmdRun n = s := by
  cases n with
  | zero => rfl
  | succ n => simp [State.cmdRun, h]

theorem State.cmdRun_step (n : Nat) (s : State) (f : InFlight) (h : s.inFlight = some f) :
    s.cmdRun (n + 1) = (s.advance f).cmdRun n := by simp [State.cmdRun, h]

theorem State.cmdRun_add (m n : Nat) (s : State) : s.cmdRun (m + n) = (s.cmdRun m).cmdRun n := by
  induction m generalizing s with
  | zero => simp [State.cmdRun]
  | succ m ih =>
    cases hf : s.inFlight with
    | none => rw [State.cmdRun_of_idle _ s hf, State.cmdRun_of_idle _ s hf, State.cmdRun_of_idle _ s hf]
    | some f =>
      rw [show m + 1 + n = (m + n) + 1 by omega, State.cmdRun_step _ s f hf, State.cmdRun_step _ s f hf, ih]

/-! ### Write sets -/

/-- The writes go to different places, none of them SNAP or SNAP_LEN; or there is one write at most. Every write set of the
block is such. -/
def orderFree (ws : List Write) : Prop :=
  ((ws.map Write.place).Nodup ∧ ∀ w ∈ ws, w.place.1 = 0 → w.place.2 < 5) ∨ ws.length ≤ 1

/-- What is left of such a write set is such a write set. -/
theorem orderFree_of_perm {ws vs : List Write} {w : Write} (h : orderFree ws) (hp : ws.Perm (w :: vs)) :
    orderFree vs ∧ ∀ s : State, (s.put w).putAll vs = s.putAll ws := by
  rcases h with ⟨hd, hs⟩ | h
  · have hd' : ((w :: vs).map Write.place).Nodup := (hp.map Write.place).nodup_iff.mp hd
    refine ⟨.inl ⟨(List.nodup_cons.mp hd').2, fun v hv => hs v (hp.mem_iff.mpr (List.mem_cons_of_mem _ hv))⟩, ?_⟩
    intro s
    exact (State.putAll_perm s hp hd hs).symm
  · have hl := hp.length_eq
    simp only [List.length_cons] at hl
    have hv : vs = [] := List.length_eq_zero_iff.mp (by omega)
    subst hv
    refine ⟨.inr (by simp), fun s => ?_⟩
    have : ws = [w] := List.perm_singleton.mp hp
    rw [this]; rfl

/-- The field writes of one channel, each to a field of its own, are such a write set. -/
theorem orderFree_onChannel (i : Nat) (fs : List FieldWrite) (h : (fs.map FieldWrite.field).Nodup) :
    orderFree (onChannel i fs) := by
  refine .inl ⟨?_, ?_⟩
  · have : (onChannel i fs).map Write.place = (fs.map FieldWrite.field).map fun k => (i + 1, k) := by
      simp [onChannel, Write.place, Function.comp_def]
    rw [this]
    exact h.map fun a b he => by simpa using he
  · intro w hw
    simp only [onChannel, List.mem_map] at hw
    obtain ⟨f, _, rfl⟩ := hw
    simp [Write.place]

/-- The places of SETUP's writes to the channels of a list. -/
theorem clearWrites_places (l : List Nat) :
    (l.flatMap fun i => onChannel i clearFields).map Write.place =
      l.flatMap fun i => (List.range 9).map fun k => (i + 1, k) := by
  induction l with
  | nil => rfl
  | cons i l ih => rw [List.flatMap_cons, List.map_append, ih, List.flatMap_cons]; rfl

/-- R111: SETUP's write set is such a write set. -/
theorem orderFree_setupWrites (c : Nat) (sr : Word) (now : Time) : orderFree (setupWrites c sr now) := by
  refine .inl ⟨?_, ?_⟩
  · rw [setupWrites, List.map_append, clearWrites_places, List.nodup_append]
    refine ⟨by simp [Write.place], ?_, ?_⟩
    · rw [List.nodup_flatMap]
      refine ⟨fun i _ => ?_, ?_⟩
      · exact List.nodup_range.map fun a b he => by simpa using he
      · refine List.nodup_range.imp ?_
        intro a b hab x hx hy
        simp only [List.mem_map] at hx hy
        obtain ⟨_, _, rfl⟩ := hx
        obtain ⟨_, _, he⟩ := hy
        exact hab (by simpa using (congrArg Prod.fst he).symm)
    · intro x hx y hy he
      subst he
      simp only [List.mem_flatMap, List.mem_map] at hy
      obtain ⟨i, _, k, _, rfl⟩ := hy
      simp [Write.place] at hx
  · intro w hw
    simp only [setupWrites, List.mem_append, List.mem_cons, List.not_mem_nil, or_false, List.mem_flatMap, onChannel,
      List.mem_map] at hw
    rcases hw with (rfl | rfl | rfl) | ⟨i, _, f, _, rfl⟩ <;> simp [Write.place]

/-- Every write set that a read sets up is such a write set. -/
theorem State.workStep_orderFree (s : State) (f : InFlight) : orderFree (s.workStep f).pending := by
  rcases s.workStep_pending f with h | ⟨i, fs, h, hf⟩ | ⟨n, v, h⟩ | ⟨v, h⟩ | ⟨sr, _, h⟩ | ⟨sr, _, h⟩ <;> rw [h]
  · exact .inr (by simp)
  · apply orderFree_onChannel
    rcases hf with rfl | rfl | rfl | ⟨_, _, _, rfl⟩ | ⟨_, _, _, _, rfl⟩
    · decide
    · decide
    · decide
    · exact (by decide : [1, 2, 3, 0, 4, 6, 8, 7].Nodup)
    · exact (by decide : [1, 2, 3, 5, 0, 4, 6, 7, 8].Nodup)
  · exact .inr (by simp)
  · exact .inr (by simp)
  · exact orderFree_setupWrites _ _ _
  · exact .inr (by simp)

/-- What is in flight and what is written have no part in each other. -/
theorem State.goesOn_putAll (s : State) (f : InFlight) (ws : List Write) :
    (s.goesOn f).putAll ws = (s.putAll ws).goesOn f := by
  induction ws generalizing s with
  | nil => rfl
  | cons w ws ih =>
    rw [State.putAll_cons, State.putAll_cons, ← ih]
    congr 1
    cases w <;> rfl

/-- R66: the writes of a write set, one by one in WRITE_ORDER's order, leave what the write set as a whole leaves. -/
theorem State.cmdRun_writes (s : State) (f : InFlight) (h : s.inFlight = some f) (ho : orderFree f.writes) :
    (s.cmdRun f.writes.length).visible = (s.flush f).visible ∧
      (s.cmdRun f.writes.length).inFlight = some { f with writes := [] } := by
  obtain ⟨wk, ws, r⟩ := f
  generalize hn : ws.length = n
  induction n generalizing s ws with
  | zero =>
    have : ws = [] := List.length_eq_zero_iff.mp hn
    subst this
    simp only [State.cmdRun]
    refine ⟨?_, h⟩
    simp only [State.flush, State.putAll_nil, State.goesOn, ← h]
  | succ n ih =>
    have hne : ws ≠ [] := by rintro rfl; cases hn
    obtain ⟨w, vs, hp, he⟩ := s.advance_of_writes ⟨wk, ws, r⟩ hne
    have hl : vs.length = n := by have := hp.length_eq; simp only [List.length_cons] at this; omega
    obtain ⟨hv, hput⟩ := orderFree_of_perm ho hp
    obtain ⟨h₁, h₂⟩ := ih ((s.orderTaken.put w).goesOn ⟨wk, vs, r⟩) vs rfl hv hl
    rw [State.cmdRun_step _ s _ h, he]
    refine ⟨?_, h₂⟩
    rw [h₁]
    simp only [State.flush, State.goesOn_visible, State.putAll_visible, State.put_visible, State.orderTaken_visible]
    rw [State.goesOn_putAll, hput, State.goesOn_goesOn]

/-- R66, R67: where the whole command comes to its end, its steps one by one come to the same end. -/
theorem State.runsTo_finish (n : Nat) (s : State) (ho : orderFree s.pending) (he : (s.finish n).inFlight = none) :
    s.runsTo (s.finish n) := by
  induction n generalizing s with
  | zero => exact ⟨0, he, rfl⟩
  | succ n ih =>
    cases hf : s.inFlight with
    | none =>
      rw [State.finish_of_idle _ s hf]
      exact ⟨0, hf, rfl⟩
    | some f =>
      by_cases hw : f.writes = []
      · rw [State.finish_read n s f hf hw] at he ⊢
        obtain ⟨m, h₁, h₂⟩ := ih _ (s.workStep_orderFree f) he
        refine ⟨m + 1, ?_⟩
        rw [State.cmdRun_step m s f hf, State.advance_of_no_writes s f hw]
        exact ⟨h₁, h₂⟩
      · rw [State.finish_flush n s f hf hw] at he ⊢
        obtain ⟨hv, hi⟩ := s.cmdRun_writes f hf (by simpa [State.pending, hf] using ho)
        have hv' : ∀ k, ((s.cmdRun f.writes.length).finish k).visible = ((s.flush f).finish k).visible := by
          intro k; rw [State.finish_visible, State.finish_visible, hv]
        obtain ⟨m, h₁, h₂⟩ := ih (s.cmdRun f.writes.length) (by simp [State.pending, hi, orderFree]) (by
          have hi' : ((s.cmdRun f.writes.length).finish n).visible.inFlight = ((s.flush f).finish n).visible.inFlight := by
            rw [hv' n]
          exact hi'.trans he)
        refine ⟨f.writes.length + m, ?_⟩
        rw [State.cmdRun_add]
        exact ⟨h₁, h₂.trans (hv' n)⟩

/-- R110: what a launched command does under either COMMAND_ATOMICITY, from what it does as a whole. -/
theorem startsOrEnds_of_finish {s t : State} {o : Host.Outcome State Fault Refusal} {f : InFlight}
    (ho : o = .next (s.launch f)) (hf : orderFree f.writes)
    (h : (s.goesOn f).finish (finishFuel s.channels) = { t with inFlight := none }) : startsOrEnds s o f t := by
  refine ⟨fun ha => ⟨?_, ?_⟩, fun ha => ?_⟩
  · obtain ⟨_, hl⟩ | ⟨hc, _⟩ := s.launch_cases f
    · rw [ho, hl]; rfl
    · rw [ha] at hc; cases hc
  · have := State.runsTo_finish (finishFuel s.channels) (s.goesOn f) hf (by rw [h])
    rw [h] at this
    exact this
  · obtain ⟨hc, _⟩ | ⟨_, hl⟩ := s.launch_cases f
    · rw [ha] at hc; cases hc
    · rw [ho, hl, h]

end Sys2Proof.Machine
end

