-- ==== Sys2Proof/Laws/Scan.lean ====
section
/-! SUPPORT. What the loops of the commands do as a whole (spec/40_scheduler.md R118, R121, R123; spec/42_query.md R191 to
R194): one lemma for each loop, by induction on the channels that are left. -/

namespace Sys2Proof.Machine

/-! ### Whole commands in parts -/

/-- The command in flight in `s` comes to stand as in `t` after at most `k` of its steps, each write set taken whole. -/
def State.leadsTo (k : Nat) (s t : State) : Prop := ∃ m, m ≤ k ∧ ∀ n, s.finish (m + n) = t.finish n

theorem State.leadsTo.refl (s : State) : s.leadsTo 0 s := ⟨0, le_refl 0, fun n => by rw [Nat.zero_add]⟩

theorem State.leadsTo.trans {a b : Nat} {s t u : State} (h₁ : s.leadsTo a t) (h₂ : t.leadsTo b u) :
    s.leadsTo (a + b) u := by
  obtain ⟨m₁, l₁, e₁⟩ := h₁
  obtain ⟨m₂, l₂, e₂⟩ := h₂
  exact ⟨m₁ + m₂, Nat.add_le_add l₁ l₂, fun n => by rw [Nat.add_assoc, e₁, e₂]⟩

theorem State.leadsTo.mono {a b : Nat} {s t : State} (h : s.leadsTo a t) (l : a ≤ b) : s.leadsTo b t := by
  obtain ⟨m, hm, e⟩ := h
  exact ⟨m, hm.trans l, e⟩

/-- Where the parts come to the end of the command, so does the whole. -/
theorem State.leadsTo.finish {k n : Nat} {s t : State} (h : s.leadsTo k t) (ht : t.inFlight = none) (l : k ≤ n) :
    s.finish n = t := by
  obtain ⟨m, hm, e⟩ := h
  obtain ⟨d, rfl⟩ := Nat.exists_eq_add_of_le (hm.trans l)
  rw [e, State.finish_of_idle _ _ ht]

/-- One read, or the delivery at the end. -/
theorem State.leadsTo_read (s : State) (w : Work) (r : List Word) :
    (s.goesOn ⟨w, [], r⟩).leadsTo 1 ((s.goesOn ⟨w, [], r⟩).workStep ⟨w, [], r⟩) :=
  ⟨1, le_refl 1, fun n => by rw [Nat.add_comm, State.finish_read n _ ⟨w, [], r⟩ rfl rfl]⟩

/-- A whole write set. -/
theorem State.leadsTo_flush (s : State) (w : Work) (ws : List Write) (r : List Word) :
    (s.goesOn ⟨w, ws, r⟩).leadsTo 1 ((s.putAll ws).goesOn ⟨w, [], r⟩) := by
  by_cases hw : ws = []
  · subst hw; exact (State.leadsTo.refl _).mono (Nat.zero_le 1)
  · refine ⟨1, le_refl 1, fun n => ?_⟩
    rw [Nat.add_comm, State.finish_flush n _ ⟨w, ws, r⟩ rfl hw]
    simp only [State.flush, State.goesOn_putAll, State.goesOn_goesOn]

/-- The end of a command: its last write set and its delivery. -/
theorem State.leadsTo_deliver (s : State) (ws : List Write) (r : List Word) :
    (s.goesOn ⟨.deliver, ws, r⟩).leadsTo 2 ((s.putAll ws).deliver r) :=
  (State.leadsTo_flush s .deliver ws r).trans (State.leadsTo_read _ .deliver r)

/-- R110: what a launched command does under either COMMAND_ATOMICITY, from what its parts lead to. -/
theorem startsOrEnds_of_leadsTo {s t : State} {o : Host.Outcome State Fault Refusal} {f : InFlight} {k : Nat}
    (ho : o = .next (s.launch f)) (hf : orderFree f.writes)
    (h : (s.goesOn f).leadsTo k { t with inFlight := none }) (hk : k ≤ finishFuel s.channels) : startsOrEnds s o f t :=
  startsOrEnds_of_finish ho hf (h.finish rfl hk)

/-- R118: PLAY's check of SAMPLE_RATE. -/
theorem State.leadsTo_playCheck (s : State) (vol : Byte) (freq dur delay : Word) :
    (s.goesOn ⟨.playCheck vol freq dur delay, [], []⟩).leadsTo 1
      (if s.sampleRate = 0 then s.raiseFault .unconfigured (commandWord .play vol)
       else s.goesOn ⟨.scan 0 (.allocate vol freq dur delay), [], []⟩) := by
  refine cast ?_ (State.leadsTo_read s (.playCheck vol freq dur delay) [])
  simp only [State.workStep, State.playCheckStep]
  by_cases h : s.sampleRate = 0
  · rw [if_pos h, if_pos (show (s.goesOn _).sampleRate = 0 from h)]; rfl
  · rw [if_neg h, if_neg (show ¬ (s.goesOn _).sampleRate = 0 from h)]; rfl

/-- R119: PLAY_CH's check of SAMPLE_RATE, and its range test. -/
theorem State.leadsTo_playChCheck (s : State) (vol : Byte) (ch freq dur delay : Word) :
    (s.goesOn ⟨.playChCheck vol ch freq dur delay, [], []⟩).leadsTo 1
      (if s.sampleRate = 0 then s.raiseFault .unconfigured (commandWord .playCh vol)
       else if ch.toNat < s.channels then s.goesOn ⟨.configure ch.toNat vol freq dur delay, [], []⟩
       else s.goesOn ⟨.deliver, [], [noneWord]⟩) := by
  refine cast ?_ (State.leadsTo_read s (.playChCheck vol ch freq dur delay) [])
  simp only [State.workStep, State.playChCheckStep]
  by_cases h : s.sampleRate = 0
  · rw [if_pos h, if_pos (show (s.goesOn _).sampleRate = 0 from h)]; rfl
  · rw [if_neg h, if_neg (show ¬ (s.goesOn _).sampleRate = 0 from h)]
    by_cases hc : ch.toNat < s.channels
    · rw [if_pos hc, channelOf_of_lt (show ch.toNat < (s.goesOn _).channels from hc)]; rfl
    · rw [if_neg hc, channelOf_of_ge (show (s.goesOn _).channels ≤ ch.toNat from Nat.le_of_not_lt hc)]; rfl

/-- R111: SETUP's check of SETUP_DONE. -/
theorem State.leadsTo_setupCheck (s : State) (sr : Word) :
    (s.goesOn ⟨.setupCheck sr, [], []⟩).leadsTo 1
      (if s.setupDone then s.raiseFault .repeatedSetup (commandWord .setup 0)
       else s.goesOn ⟨.setupNow sr, [], []⟩) := by
  refine cast ?_ (State.leadsTo_read s (.setupCheck sr) [])
  simp only [State.workStep, State.setupCheckStep]
  by_cases h : s.setupDone = true
  · rw [if_pos h, if_pos (show (s.goesOn _).setupDone = true from h)]; rfl
  · rw [if_neg h, if_neg (show ¬ (s.goesOn _).setupDone = true from h)]; rfl

/-- R112, R116, R117: CONFIGURE, from its reads to the delivery of the index. -/
theorem State.leadsTo_configure (s : State) (i : Nat) (vol : Byte) (freq dur delay : Word) :
    (s.goesOn ⟨.configure i vol freq dur delay, [], []⟩).leadsTo 4
      { s.toneArmed i vol freq dur delay with inFlight := none } := by
  have h₁ := State.leadsTo_read s (.configure i vol freq dur delay) []
  have hi : isDelayed delay = true ↔ 0 < delay.toInt := decide_eq_true_iff
  simp only [State.workStep, State.configure] at h₁
  by_cases hd : 0 < delay.toInt
  · rw [if_pos (hi.mpr hd), State.worksOn_eq, State.goesOn_goesOn] at h₁
    have h₂ := h₁.trans (State.leadsTo_read s _ [])
    refine cast ?_ (h₂.trans (State.leadsTo_deliver _ _ _))
    rw [State.putAll_onChannel, State.toneArmed, if_pos hd]
    simp [State.channelBecomes, State.answered, State.deliver, State.nowTaken, countWord, State.goesOn,
      State.nowAnswer]
  · rw [if_neg (mt hi.mp hd)] at h₁
    refine cast ?_ ((h₁.trans (State.leadsTo_deliver _ _ _)).mono (show 1 + 2 ≤ 4 by omega))
    rw [State.putAll_onChannel, State.toneArmed, if_neg hd]
    simp [State.channelBecomes, State.answered, State.deliver, countWord, State.goesOn]

/-! ### Scans -/

/-- A channel that the scan for `g` finds busy. -/
def ScanGoal.finds (g : ScanGoal) (c : Channel) : Bool := c.active || (g.readsScheduled && c.scheduled)

theorem State.scanBusy_goesOn (s : State) (f : InFlight) (j : Nat) (g : ScanGoal) :
    (s.goesOn f).scanBusy j g = s.scanBusy j g := by cases g <;> rfl
theorem State.scanFree_goesOn (s : State) (f : InFlight) (j : Nat) (g : ScanGoal) :
    (s.goesOn f).scanFree j g = s.scanFree j g := by cases g <;> rfl
theorem State.scanEnd_goesOn (s : State) (f : InFlight) (g : ScanGoal) :
    (s.goesOn f).scanEnd g = s.scanEnd g := by cases g <;> rfl

/-- R118, R190: what a scan does with one channel, in one read or two. -/
theorem State.leadsTo_scan (s : State) (j : Nat) (g : ScanGoal) (c : Channel) (h : s.pool[j]? = some c) :
    (s.goesOn ⟨.scan j g, [], []⟩).leadsTo 2 (if g.finds c then s.scanBusy j g else s.scanFree j g) := by
  have hj : j < s.channels := (List.getElem?_eq_some_iff.mp h).1
  have h₁ := State.leadsTo_read s (.scan j g) []
  have e₁ : (s.goesOn ⟨.scan j g, [], []⟩).workStep ⟨.scan j g, [], []⟩ =
      if c.active then s.scanBusy j g else if g.readsScheduled then s.goesOn ⟨.scanScheduled j g, [], []⟩
        else s.scanFree j g := by
    simp only [State.workStep, State.scanStep, State.scanBusy_goesOn, State.scanFree_goesOn]
    rw [if_pos (show j < (s.goesOn ⟨.scan j g, [], []⟩).channels from hj),
      State.activeAt_of_getElem? (s := s.goesOn _) h]
    rfl
  rw [e₁] at h₁
  cases ha : c.active with
  | true =>
    rw [ha, if_pos rfl] at h₁
    simpa [ScanGoal.finds, ha] using h₁.mono (by omega)
  | false =>
    rw [ha, if_neg Bool.false_ne_true] at h₁
    cases hr : g.readsScheduled with
    | false =>
      rw [hr, if_neg Bool.false_ne_true] at h₁
      simpa [ScanGoal.finds, ha, hr] using h₁.mono (by omega)
    | true =>
      rw [hr, if_pos rfl] at h₁
      have h₂ := State.leadsTo_read s (.scanScheduled j g) []
      simp only [State.workStep, State.scanScheduledStep, State.scanBusy_goesOn, State.scanFree_goesOn] at h₂
      rw [State.scheduledAt_of_getElem? (s := s.goesOn _) h] at h₂
      simpa [ScanGoal.finds, ha, hr] using h₁.trans h₂

/-- The end of the pool. -/
theorem State.leadsTo_scanEnd (s : State) (j : Nat) (g : ScanGoal) (h : s.channels ≤ j) :
    (s.goesOn ⟨.scan j g, [], []⟩).leadsTo 1 (s.scanEnd g) := by
  have h₁ := State.leadsTo_read s (.scan j g) []
  simp only [State.workStep, State.scanStep, State.scanEnd_goesOn] at h₁
  rwa [if_neg (show ¬ j < (s.goesOn ⟨.scan j g, [], []⟩).channels from Nat.not_lt.mpr h)] at h₁

/-- The pool from channel `j` on, where there is one. -/
theorem State.drop_pool (s : State) {j d : Nat} (h : j + (d + 1) = s.channels) :
    ∃ c, s.pool[j]? = some c ∧ s.pool.drop j = c :: s.pool.drop (j + 1) := by
  have hj : j < s.pool.length := by simp only [State.channels] at h; omega
  exact ⟨s.pool[j], List.getElem?_eq_getElem hj, List.drop_eq_getElem_cons hj⟩

/-- The pool from its end on. -/
theorem State.drop_pool_end (s : State) {j : Nat} (h : j + 0 = s.channels) : s.pool.drop j = [] :=
  List.drop_eq_nil_of_le (by simp only [State.channels] at h; omega)

/-- R118, R191: the scans of PLAY and FIND_FREE stop at the lowest Free channel, or come to the end of the pool. -/
theorem State.leadsTo_search (g : ScanGoal) (hr : g.readsScheduled = true)
    (hb : ∀ (s : State) (j : Nat), s.scanBusy j g = s.worksOn (.scan (j + 1) g)) (s : State) (d : Nat) :
    ∀ j, j + d = s.channels →
      (s.goesOn ⟨.scan j g, [], []⟩).leadsTo (2 * d + 1)
        (match (s.pool.drop j).findIdx? (fun c => !c.active && !c.scheduled) with
          | none => s.scanEnd g
          | some k => s.scanFree (j + k) g) := by
  induction d with
  | zero =>
    intro j hj
    rw [s.drop_pool_end hj]
    exact s.leadsTo_scanEnd j g (by omega)
  | succ d ih =>
    intro j hj
    obtain ⟨c, hc, hp⟩ := s.drop_pool hj
    have h₁ := s.leadsTo_scan j g c hc
    have hf : (!c.active && !c.scheduled) = !g.finds c := by simp [ScanGoal.finds, hr, Bool.not_or]
    rw [hp, List.findIdx?_cons, hf]
    cases hg : g.finds c with
    | true =>
      rw [hg, if_pos rfl, hb, State.worksOn_eq] at h₁
      have h₂ := h₁.trans (ih (j + 1) (by omega))
      simp only [Bool.not_true, Bool.false_eq_true, if_false]
      cases hx : (s.pool.drop (j + 1)).findIdx? (fun c => !c.active && !c.scheduled) with
      | none => rw [hx] at h₂; exact h₂.mono (by omega)
      | some k =>
        rw [hx] at h₂
        simpa [show j + 1 + k = j + (k + 1) by omega] using h₂.mono (show 2 + (2 * d + 1) ≤ 2 * (d + 1) + 1 by omega)
    | false =>
      rw [hg, if_neg Bool.false_ne_true] at h₁
      simpa using h₁.mono (show 2 ≤ 2 * (d + 1) + 1 by omega)

/-- R193, R194: the scans of the two counts come to the end of the pool with the number of channels they found busy. -/
theorem State.leadsTo_count (g : Word → ScanGoal) (p : Channel → Bool) (hp : ∀ n c, (g n).finds c = p c)
    (hb : ∀ (s : State) (j : Nat) (n : Word), s.scanBusy j (g n) = s.worksOn (.scan (j + 1) (g (n + 1))))
    (hf : ∀ (s : State) (j : Nat) (n : Word), s.scanFree j (g n) = s.worksOn (.scan (j + 1) (g n))) (s : State)
    (d : Nat) :
    ∀ j n, j + d = s.channels →
      (s.goesOn ⟨.scan j (g n), [], []⟩).leadsTo (2 * d + 1)
        (s.scanEnd (g (n + BitVec.ofNat 32 ((s.pool.drop j).countP p)))) := by
  induction d with
  | zero =>
    intro j n hj
    rw [s.drop_pool_end hj]
    simpa using s.leadsTo_scanEnd j (g n) (by omega)
  | succ d ih =>
    intro j n hj
    obtain ⟨c, hc, hd⟩ := s.drop_pool hj
    have h₁ := s.leadsTo_scan j (g n) c hc
    rw [hp] at h₁
    rw [hd, List.countP_cons]
    cases hpc : p c with
    | true =>
      rw [hpc, if_pos rfl, hb, State.worksOn_eq] at h₁
      have h₂ := (h₁.trans (ih (j + 1) (n + 1) (by omega))).mono (show 2 + (2 * d + 1) ≤ 2 * (d + 1) + 1 by omega)
      rw [if_pos rfl, BitVec.ofNat_add,
        show n + (BitVec.ofNat 32 ((s.pool.drop (j + 1)).countP p) + BitVec.ofNat 32 1) =
          n + 1 + BitVec.ofNat 32 ((s.pool.drop (j + 1)).countP p) by
            rw [BitVec.add_comm (BitVec.ofNat 32 _) (BitVec.ofNat 32 1), ← BitVec.add_assoc]; rfl]
      exact h₂
    | false =>
      rw [hpc, if_neg Bool.false_ne_true, hf, State.worksOn_eq] at h₁
      have h₂ := (h₁.trans (ih (j + 1) n (by omega))).mono (show 2 + (2 * d + 1) ≤ 2 * (d + 1) + 1 by omega)
      simpa using h₂

/-! ### STOP_ALL and UPDATE -/

/-- A list changed at its `j`-th entry, from there on. -/
theorem modify_take_drop {l : List Channel} {j : Nat} {c : Channel} (g : Channel → Channel) (h : l[j]? = some c) :
    (l.modify j g).take (j + 1) = l.take j ++ [g c] ∧ (l.modify j g).drop (j + 1) = l.drop (j + 1) := by
  obtain ⟨hj, rfl⟩ := List.getElem?_eq_some_iff.mp h
  refine ⟨?_, ?_⟩
  · apply List.ext_getElem?
    intro k
    rcases Nat.lt_trichotomy k j with hk | hk | hk
    · rw [List.getElem?_take_of_lt (by omega), List.getElem?_modify,
        List.getElem?_append_left (by simp; omega), List.getElem?_take_of_lt hk]
      simp [Nat.ne_of_gt hk]
    · subst hk
      rw [List.getElem?_take_of_lt (by omega), List.getElem?_modify,
        List.getElem?_append_right (by simp), List.getElem?_eq_getElem hj]
      simp [Nat.min_eq_left hj.le]
    · rw [List.getElem?_eq_none (by simp; omega), List.getElem?_eq_none (by simp; omega)]
  · apply List.ext_getElem?
    intro k
    rw [List.getElem?_drop, List.getElem?_drop, List.getElem?_modify]
    simp [show j ≠ j + 1 + k by omega]

/-- R121: STOP_ALL from channel `j` on. -/
theorem State.leadsTo_freeFrom (d : Nat) :
    ∀ (s : State) (j : Nat), j + d = s.channels →
      (s.goesOn ⟨.freeFrom j, [], []⟩).leadsTo (2 * d + 3)
        ({ s with
            pool := s.pool.take j ++
              (s.pool.drop j).map fun c : Channel => { c with active := false, scheduled := false } }.deliver []) := by
  induction d with
  | zero =>
    intro s j hj
    have h₁ := State.leadsTo_read s (.freeFrom j) []
    simp only [State.workStep, State.freeStep] at h₁
    rw [if_neg (show ¬ j < (s.goesOn ⟨.freeFrom j, [], []⟩).channels by
      simp only [State.channels, State.goesOn] at *; omega)] at h₁
    have h₂ := h₁.trans (State.leadsTo_deliver _ [] [])
    rw [s.drop_pool_end hj, List.take_of_length_le (by simp only [State.channels] at hj; omega)]
    simpa [State.deliver, State.goesOn] using h₂
  | succ d ih =>
    intro s j hj
    obtain ⟨c, hc, hd⟩ := s.drop_pool hj
    have h₁ := State.leadsTo_read s (.freeFrom j) []
    simp only [State.workStep, State.freeStep] at h₁
    rw [if_pos (show j < (s.goesOn ⟨.freeFrom j, [], []⟩).channels by
      simp only [State.channels, State.goesOn] at *; omega), State.writesThen_eq, State.goesOn_goesOn] at h₁
    have h₂ := h₁.trans (State.leadsTo_flush s (.freeFrom (j + 1)) (onChannel j freeFields) [])
    rw [State.putAll_onChannel] at h₂
    have h₃ := h₂.trans (ih _ (j + 1) (by simp only [State.channels, State.channelBecomes] at *; simp; omega))
    refine cast ?_ (h₃.mono (show 1 + 1 + (2 * d + 3) ≤ 2 * (d + 1) + 3 by omega))
    obtain ⟨e₁, e₂⟩ := modify_take_drop (fun c => { c with active := false, scheduled := false }) hc
    simp only [State.channelBecomes, e₁, e₂, hd, List.map_cons, freeFields_fold, List.append_assoc,
      List.singleton_append]

/-- R123: UPDATE from channel `j` on, at the time `t` it has read. -/
theorem State.leadsTo_updateScan (t : Time) (d : Nat) :
    ∀ (s : State) (j : Nat), j + d = s.channels →
      (s.goesOn ⟨.updateScan t j, [], []⟩).leadsTo (3 * d + 3)
        ({ s with
            pool := s.pool.take j ++ (s.pool.drop j).map fun c : Channel =>
              if c.scheduled = true ∧ c.startTime.toNat ≤ t.toNat then
                { c with phase := 0, samplesPlayed := 0, envelope := 0, active := true, scheduled := false }
              else c }.deliver []) := by
  induction d with
  | zero =>
    intro s j hj
    have h₁ := State.leadsTo_read s (.updateScan t j) []
    simp only [State.workStep, State.updateScanStep] at h₁
    rw [if_neg (show ¬ j < (s.goesOn ⟨.updateScan t j, [], []⟩).channels by
      simp only [State.channels, State.goesOn] at *; omega)] at h₁
    have h₂ := h₁.trans (State.leadsTo_deliver _ [] [])
    rw [s.drop_pool_end hj, List.take_of_length_le (by simp only [State.channels] at hj; omega)]
    simpa [State.deliver, State.goesOn] using h₂
  | succ d ih =>
    intro s j hj
    obtain ⟨c, hc, hd⟩ := s.drop_pool hj
    have hj' : j < s.channels := by omega
    have h₁ := State.leadsTo_read s (.updateScan t j) []
    simp only [State.workStep, State.updateScanStep] at h₁
    rw [if_pos (show j < (s.goesOn ⟨.updateScan t j, [], []⟩).channels from hj'),
      State.scheduledAt_of_getElem? (s := s.goesOn _) hc] at h₁
    have skip : (s.goesOn ⟨.updateScan t (j + 1), [], []⟩).leadsTo (3 * d + 3)
        ({ s with
            pool := s.pool.take j ++ c :: (s.pool.drop (j + 1)).map fun c : Channel =>
              if c.scheduled = true ∧ c.startTime.toNat ≤ t.toNat then
                { c with phase := 0, samplesPlayed := 0, envelope := 0, active := true, scheduled := false }
              else c }.deliver []) := by
      refine cast ?_ (ih s (j + 1) (by omega))
      rw [List.take_add_one, hc]
      simp only [Option.toList_some, List.append_assoc, List.singleton_append]
    rw [hd, List.map_cons]
    cases hs : c.scheduled with
    | false =>
      rw [hs, if_neg Bool.false_ne_true, State.worksOn_eq, State.goesOn_goesOn] at h₁
      rw [if_neg (by simp)]
      exact (h₁.trans skip).mono (by omega)
    | true =>
      rw [hs, if_pos rfl, State.worksOn_eq, State.goesOn_goesOn] at h₁
      have h₂ := State.leadsTo_read s (.updateStart t j) []
      simp only [State.workStep, State.updateStartStep] at h₂
      rw [State.startTimeAt_of_getElem? (s := s.goesOn _) hc] at h₂
      by_cases hdue : c.startTime.toNat ≤ t.toNat
      · rw [if_pos (show isDue t c.startTime = true by simpa [isDue, BitVec.le_def] using hdue), State.writesThen_eq,
          State.goesOn_goesOn] at h₂
        have h₃ := h₂.trans (State.leadsTo_flush s (.updateScan t (j + 1)) (onChannel j promoteFields) [])
        rw [State.putAll_onChannel] at h₃
        have h₄ := h₃.trans (ih _ (j + 1) (by simp only [State.channels, State.channelBecomes] at *; simp; omega))
        rw [if_pos ⟨rfl, hdue⟩]
        refine cast ?_ ((h₁.trans h₄).mono (show 1 + (1 + 1 + (3 * d + 3)) ≤ 3 * (d + 1) + 3 by omega))
        obtain ⟨e₁, e₂⟩ := modify_take_drop (fun c =>
          { c with phase := 0, samplesPlayed := 0, envelope := 0, active := true, scheduled := false }) hc
        simp only [State.channelBecomes, e₁, e₂, promoteFields_fold, List.append_assoc, List.singleton_append]
      · rw [if_neg (show ¬ isDue t c.startTime = true by simpa [isDue, BitVec.le_def] using hdue), State.worksOn_eq,
          State.goesOn_goesOn] at h₂
        rw [if_neg (fun h => hdue h.2)]
        exact (h₁.trans (h₂.trans skip)).mono (by omega)

/-! ### REBUILD_LIST -/

/-- R192: the indices of the busy channels from `j` on. -/
def busyFrom (j : Nat) : List Channel → List Nat
  | [] => []
  | c :: cs => if c.active || c.scheduled then j :: busyFrom (j + 1) cs else busyFrom (j + 1) cs

theorem busyFrom_length (j : Nat) (cs : List Channel) :
    (busyFrom j cs).length = cs.countP fun c => c.active || c.scheduled := by
  induction cs generalizing j with
  | nil => rfl
  | cons c cs ih =>
    rw [busyFrom, List.countP_cons]
    split <;> simp_all

/-- The indices of the busy channels, found by a scan of all indices. -/
theorem busyFrom_eq_filter (s : State) (d : Nat) :
    ∀ j, j + d = s.channels →
      busyFrom j (s.pool.drop j) = (List.range' j d).filter fun i => s.activeAt i || s.scheduledAt i := by
  induction d with
  | zero => intro j hj; rw [s.drop_pool_end hj]; rfl
  | succ d ih =>
    intro j hj
    obtain ⟨c, hc, hd⟩ := s.drop_pool hj
    rw [hd, busyFrom, ih (j + 1) (by omega), List.range'_succ, List.filter_cons,
      State.activeAt_of_getElem? hc, State.scheduledAt_of_getElem? hc]

/-- Entries put one after the other behind a full list. -/
theorem snapPut_full (l rest : List Word) (v : Word) :
    snapPut (l ++ rest) l.length v = (l ++ [v]) ++ rest.drop 1 := by
  simp [snapPut]

/-- R192: REBUILD_LIST from channel `j` on, with the entries `l` already stored. -/
theorem State.leadsTo_rebuild (d : Nat) :
    ∀ (s : State) (j : Nat) (l rest : List Word), j + d = s.channels → s.snap = l ++ rest →
      ∃ rest' : List Word, (s.goesOn ⟨.scan j (.rebuild l.length), [], []⟩).leadsTo (3 * d + 1)
        ({ s with snap := l ++ (busyFrom j (s.pool.drop j)).map (BitVec.ofNat 32) ++ rest' }.scanEnd
          (.rebuild (l.length + (busyFrom j (s.pool.drop j)).length))) := by
  induction d with
  | zero =>
    intro s j l rest hj hs
    rw [s.drop_pool_end hj]
    refine ⟨rest, ?_⟩
    have h₁ := s.leadsTo_scanEnd j (.rebuild l.length) (by omega)
    simpa [busyFrom, ← hs] using h₁
  | succ d ih =>
    intro s j l rest hj hs
    obtain ⟨c, hc, hd⟩ := s.drop_pool hj
    have h₁ := s.leadsTo_scan j (.rebuild l.length) c hc
    have hf : (ScanGoal.rebuild l.length).finds c = (c.active || c.scheduled) := by
      simp [ScanGoal.finds, ScanGoal.readsScheduled]
    rw [hf] at h₁
    rw [hd, busyFrom]
    cases hb : c.active || c.scheduled with
    | false =>
      rw [hb, if_neg Bool.false_ne_true] at h₁
      obtain ⟨rest', h₂⟩ := ih s (j + 1) l rest (by omega) hs
      exact ⟨rest', (h₁.trans h₂).mono (by omega)⟩
    | true =>
      rw [hb, if_pos rfl] at h₁
      have h₂ := h₁.trans
        (State.leadsTo_flush s (.scan (j + 1) (.rebuild (l.length + 1))) [.snapEntry l.length (countWord j)] [])
      have hput : s.putAll [.snapEntry l.length (countWord j)] =
          { s with snap := (l ++ [BitVec.ofNat 32 j]) ++ rest.drop 1 } := by
        simp only [State.putAll_cons, State.putAll_nil, State.put, hs, snapPut_full, countWord]
      rw [hput] at h₂
      obtain ⟨rest', h₃⟩ := ih { s with snap := (l ++ [BitVec.ofNat 32 j]) ++ rest.drop 1 } (j + 1)
        (l ++ [BitVec.ofNat 32 j]) (rest.drop 1) (by simp only [State.channels] at *; omega) rfl
      rw [List.length_append, List.length_singleton] at h₃
      refine ⟨rest', ?_⟩
      simpa [Nat.add_comm, Nat.add_left_comm, Nat.add_assoc] using
        (h₂.trans h₃).mono (show 2 + 1 + (3 * d + 1) ≤ 3 * (d + 1) + 1 by omega)

/-! ### SETUP -/

/-- R111: the writes of SETUP to the channels of a list. -/
theorem State.putAll_clearFrom (d : Nat) :
    ∀ (s : State) (j : Nat), j + d = s.channels →
      s.putAll ((List.range' j d).flatMap fun i => onChannel i clearFields) =
        { s with pool := s.pool.take j ++ List.replicate d Channel.reset } := by
  induction d with
  | zero =>
    intro s j hj
    rw [List.take_of_length_le (by simp only [State.channels] at hj; omega)]
    simp
  | succ d ih =>
    intro s j hj
    obtain ⟨c, hc, -⟩ := s.drop_pool hj
    rw [List.range'_succ, List.flatMap_cons, State.putAll_append, State.putAll_onChannel,
      ih _ (j + 1) (by simp only [State.channels, State.channelBecomes] at *; simp; omega)]
    obtain ⟨e₁, -⟩ := modify_take_drop (fun _ => Channel.reset) hc
    simp only [State.channelBecomes, clearFields_fold, e₁, List.replicate_succ, List.append_assoc,
      List.singleton_append]

/-- R111: all of SETUP's write set but RUNNING. -/
theorem State.putAll_setupWrites (s : State) (sr : Word) (now : Time) :
    s.putAll (setupWrites s.channels sr now) =
      { s with
        pool := List.replicate s.pool.length Channel.reset, setupDone := true, sampleRate := sr
        audioStartTime := now } := by
  rw [setupWrites, State.putAll_append, List.range_eq_range']
  exact (State.putAll_clearFrom s.channels { s with setupDone := true, sampleRate := sr, audioStartTime := now } 0
    (Nat.zero_add _)).trans (by simp [State.channels])

end Sys2Proof.Machine
end

