-- ==== Sys2Proof/Machine/Assembler.lean ====
section
/-! DEFINITION. The assembler of spec/30_encoding.md R97, R98: one line of text to the words of its command. How a
number is spelled is the model's choice (log 32). -/

namespace Sys2Proof.Machine

/-- A decimal number, `numerator / denominator`, as R97's `freq`, `dur` and `delay` are written. -/
structure Decimal where
  numerator : Int
  denominator : Nat
  deriving DecidableEq, Repr

/-- R97: the Q16.16 word of a decimal x, `floor(x * 2^16) mod 2^32`. -/
def Decimal.q16 (x : Decimal) : Word := BitVec.ofInt 32 (x.numerator * 2 ^ 16 / x.denominator)

/-- R87, R97: an unsigned Q16.16 word; a value outside 0 to 65535 + 65535/65536 is refused. -/
def unsignedQ16 (x : Decimal) : Option Word :=
  if 0 ≤ x.numerator ∧ x.numerator * 2 ^ 16 ≤ (2 ^ 32 - 1) * x.denominator then some x.q16 else none

/-- R87, R97: a signed Q16.16 word; a value outside -32768 to 32767 + 65535/65536 is refused. -/
def signedQ16 (x : Decimal) : Option Word :=
  if -(2 ^ 31) * (x.denominator : Int) ≤ x.numerator * 2 ^ 16 ∧ x.numerator * 2 ^ 16 ≤ (2 ^ 31 - 1) * x.denominator
  then some x.q16 else none

/-- R97: an unsigned integer operand of 32 bits. -/
def unsignedWord (n : Nat) : Option Word := if n < 2 ^ 32 then some (BitVec.ofNat 32 n) else none

/-- R97: `vol`, an integer 0 to 255. -/
def volume (n : Nat) : Option Byte := if n < 256 then some (BitVec.ofNat 8 n) else none

/-- The value of a digit, of a decimal or a hexadecimal number. -/
def digitValue (base : Nat) (c : Char) : Option Nat :=
  let v := if '0' ≤ c ∧ c ≤ '9' then c.toNat - '0'.toNat
    else if 'a' ≤ c ∧ c ≤ 'f' then c.toNat - 'a'.toNat + 10
    else if 'A' ≤ c ∧ c ≤ 'F' then c.toNat - 'A'.toNat + 10
    else 16
  if v < base then some v else none

/-- The number that digits spell on from `n`. -/
def digitsFrom (base n : Nat) : List Char → Option Nat
  | [] => some n
  | c :: cs => (digitValue base c).bind fun v => digitsFrom base (n * base + v) cs

/-- The number that one digit or more spell. -/
def digits (base : Nat) : List Char → Option Nat
  | [] => none
  | c :: cs => digitsFrom base 0 (c :: cs)

/-- An unsigned integer: decimal, or hexadecimal after `0x` (00_scope.md R10). -/
def parseNat : List Char → Option Nat
  | '0' :: 'x' :: cs => digits 16 cs
  | cs => digits 10 cs

/-- The pieces of a text between the places where `sep` stands. -/
def pieces (sep : Char) : List Char → List (List Char)
  | [] => [[]]
  | c :: cs =>
    if c = sep then [] :: pieces sep cs
    else match pieces sep cs with
      | [] => [[c]]
      | p :: ps => (c :: p) :: ps

/-- An unsigned decimal number: digits, and after a point more digits. -/
def parseUnsignedDecimal (cs : List Char) : Option Decimal :=
  match pieces '.' cs with
  | [whole] => (digits 10 whole).map fun n => { numerator := n, denominator := 1 }
  | [whole, part] =>
    (digits 10 whole).bind fun n => (digits 10 part).map fun f =>
      { numerator := ((n * 10 ^ part.length + f : Nat) : Int), denominator := 10 ^ part.length }
  | _ => none

/-- A decimal number with or without a minus sign. -/
def parseDecimal : List Char → Option Decimal
  | '-' :: cs => (parseUnsignedDecimal cs).map fun x => { x with numerator := -x.numerator }
  | cs => parseUnsignedDecimal cs

/-- A blank of a line. -/
def isBlank (c : Char) : Bool := c == ' ' || c == '\t'

/-- A text without the blanks at its two ends. -/
def trim (cs : List Char) : List Char := ((cs.dropWhile isBlank).reverse.dropWhile isBlank).reverse

/-- R97: a line's mnemonic and its operands. -/
def lineParts (line : List Char) : List Char × List (List Char) :=
  let text := trim line
  let rest := trim (text.dropWhile fun c => !isBlank c)
  (text.takeWhile fun c => !isBlank c, if rest.isEmpty then [] else (pieces ',' rest).map trim)

/-- R97: an unsigned integer operand. -/
def wordOperand (cs : List Char) : Option Word := (parseNat cs).bind unsignedWord

/-- R97: a `vol` operand. -/
def volOperand (cs : List Char) : Option Byte := (parseNat cs).bind volume

/-- R97: a `freq` operand. -/
def freqOperand (cs : List Char) : Option Word := (parseDecimal cs).bind unsignedQ16

/-- R97: a `dur` or `delay` operand. -/
def secondsOperand (cs : List Char) : Option Word := (parseDecimal cs).bind signedQ16

/-- R98: the operands of PLAY with the defaults that a shorter form leaves out. -/
def playDefaults : List (List Char) → List (List Char)
  | [freq, vol] => [freq, vol, ['0'], ['0']]
  | [freq, vol, dur] => [freq, vol, dur, ['0']]
  | ops => ops

/-- R97, R98: PLAY. -/
def assemblePlay (ops : List (List Char)) : Option Instr :=
  match playDefaults ops with
  | [freq, vol, dur, delay] => do
    some (.play (← volOperand vol) (← freqOperand freq) (← secondsOperand dur) (← secondsOperand delay))
  | _ => none

/-- R97, R98: PLAY_CH. -/
def assemblePlayCh : List (List Char) → Option Instr
  | [] => none
  | ch :: ops =>
    match playDefaults ops with
    | [freq, vol, dur, delay] => do
      some (.playCh (← volOperand vol) (← wordOperand ch) (← freqOperand freq) (← secondsOperand dur)
        (← secondsOperand delay))
    | _ => none

/-- R97: SETUP. -/
def assembleSetup : List (List Char) → Option Instr
  | [sr, outPin, enPin] => do some (.setup (← wordOperand sr) (← wordOperand outPin) (← wordOperand enPin))
  | _ => none

/-- R97: a command of one CH operand. -/
def assembleChannel (make : Word → Instr) : List (List Char) → Option Instr
  | [ch] => (wordOperand ch).map make
  | _ => none

/-- R97: a command without operands. -/
def assembleBare (i : Instr) : List (List Char) → Option Instr
  | [] => some i
  | _ => none

/-- R97, R98: the instruction of a line, none where the line is no command. -/
def assembleLine (line : List Char) : Option Instr :=
  match lineParts line with
  | (name, ops) =>
    if name = "SETUP".toList then assembleSetup ops
    else if name = "PLAY".toList then assemblePlay ops
    else if name = "PLAY_CH".toList then assemblePlayCh ops
    else if name = "STOP".toList then assembleChannel .stop ops
    else if name = "STOP_ALL".toList then assembleBare .stopAll ops
    else if name = "CANCEL".toList then assembleChannel .cancel ops
    else if name = "UPDATE".toList then assembleBare .update ops
    else if name = "FIND_FREE".toList then assembleBare .findFree ops
    else if name = "IS_ACTIVE".toList then assembleChannel .isActive ops
    else if name = "ACTIVE_COUNT".toList then assembleBare .activeCount ops
    else if name = "PLAYING_COUNT".toList then assembleBare .playingCount ops
    else if name = "MAX_CHANNELS".toList then assembleBare .maxChannels ops
    else if name = "START_TIME".toList then assembleBare .startTime ops
    else if name = "REBUILD_LIST".toList then assembleBare .rebuildList ops
    else none

/-- R97: the words of a line. -/
def assemble (line : String) : Option (List Word) := (assembleLine line.toList).map encode

end Sys2Proof.Machine
end

