-- ==== Sys2Proof/Tests/Slice0.lean ====
section
/-! SUPPORT. The model's own tests. Expected values are those of spec/30_encoding.md R100 and spec/95_test_vectors.md,
or worked by hand from the rule named. -/

namespace Sys2Proof.Tests

open Sys2Proof Sys2Proof.Machine

/-! ### Well-formedness refuses each ill-formed term -/

/-- R94: TICK has no command word. -/
theorem test_wf_tick : Instr.tick.wellFormed = false := by decide
/-- R95: an unassigned OPC. -/
theorem test_wf_unassigned : RawCommand.wellFormed ⟨0x00000008, []⟩ = false := by decide
/-- R84: RSV not 0. -/
theorem test_wf_reserved : RawCommand.wellFormed ⟨0x00010007, []⟩ = false := by decide
/-- R84: VOL not 0 outside PLAY and PLAY_CH. -/
theorem test_wf_unused_vol : RawCommand.wellFormed ⟨0x00000104, [0]⟩ = false := by decide
/-- R80: an operand word too few, and one too many. -/
theorem test_wf_operand_count :
    RawCommand.wellFormed ⟨0x00000003, [0, 0, 0]⟩ = false ∧ RawCommand.wellFormed ⟨0x00000005, [0]⟩ = false := by decide
/-- R83: PLAY with any VOL is well formed. -/
theorem test_wf_play : RawCommand.wellFormed ⟨0x0000FF02, [0, 0, 0]⟩ = true := by decide

/-! ### Decoding: one word written out for each constructor (R93, R100) -/

theorem test_decode_setup : decode [0x00000001, 0x00002B11, 7, 9] = some (.setup 11025 7 9, []) := by decide
theorem test_decode_play :
    decode [0x0000C802, 0x00010000, 0x00008000, 5] = some (.play 200 0x10000 0x8000 5, []) := by decide
theorem test_decode_playCh :
    decode [0x0000FF03, 1, 0x01B80000, 2, 0x4000] = some (.playCh 255 1 0x01B80000 2 0x4000, []) := by decide
theorem test_decode_stop : decode [0x00000004, 3, 5] = some (.stop 3, [5]) := by decide
theorem test_decode_stopAll : decode [0x00000005] = some (.stopAll, []) := by decide
theorem test_decode_cancel : decode [0x00000006, 0] = some (.cancel 0, []) := by decide
theorem test_decode_update : decode [0x00000007] = some (.update, []) := by decide
theorem test_decode_findFree : decode [0x00000010] = some (.findFree, []) := by decide
theorem test_decode_isActive : decode [0x00000011, 0x40] = some (.isActive 64, []) := by decide
theorem test_decode_activeCount : decode [0x00000012] = some (.activeCount, []) := by decide
theorem test_decode_playingCount : decode [0x00000013] = some (.playingCount, []) := by decide
theorem test_decode_maxChannels : decode [0x00000014] = some (.maxChannels, []) := by decide
theorem test_decode_startTime : decode [0x00000015] = some (.startTime, []) := by decide
theorem test_decode_rebuildList : decode [0x00000016] = some (.rebuildList, []) := by decide
/-- R94: no word is TICK; R81: a missing operand word leaves the command incomplete. -/
theorem test_decode_none : decode [] = none ∧ decode [0x00000003, 1, 2, 3] = none ∧ encode .tick = [] := by decide
/-- 95_test_vectors.md 2.1: the illegal words, each by its reason. -/
theorem test_decode_illegal :
    decodeWord 0x00000000 = .error .unassignedOpcode ∧ decodeWord 0x00000017 = .error .unassignedOpcode ∧
    decodeWord 0x00000104 = .error .unusedVol ∧ decodeWord 0x00010007 = .error .reservedBits ∧
    decodeWord 0x000000FF = .error .unassignedOpcode := ⟨rfl, rfl, rfl, rfl, rfl⟩
theorem test_table_word :
    decodeTableWord 32 0x0000C803 = some (.playCh 200 0 0 0 0) ∧ decodeTableWord 32 0x00000104 = none ∧
    decodeTableWord 64 0x0000000300000004 = some (.stop 3) := by decide

/-! ### The assembler (R97, R98, R100) -/

theorem test_assemble_playCh :
    assemble "PLAY_CH 1, 440, 200, 0, 0.25" = some [0x0000C803, 1, 0x01B80000, 0, 0x00004000] := by decide
theorem test_assemble_play : assemble "PLAY 440, 100, -1, 0" = some [0x00006402, 0x01B80000, 0xFFFF0000, 0] := by decide
/-- R98: the defaults of DUR and DELAY. -/
theorem test_assemble_defaults : assemble "PLAY 440, 200" = some [0x0000C802, 0x01B80000, 0, 0] := by decide
/-- R97: a value outside the format's range is refused. -/
theorem test_assemble_refuses :
    assemble "PLAY -1, 200" = none ∧ assemble "PLAY 65536, 200" = none ∧ assemble "PLAY 1, 256" = none := by decide

/-! ### Conversions (95_test_vectors.md 2.2) -/

theorem test_inc :
    incOf 0x01B80000 11025 = 0x0A377EE5 ∧ incOf 0xFFFF0000 11025 = 0xF1B84016 ∧ incOf 0x00040000 8 = 0x80000000 := by
  decide
theorem test_durs :
    dursOf 0x00008000 11025 = 5512 ∧ dursOf 0x00001999 8 = 0 ∧ dursOf 0xFFFF0000 8 = 0 ∧
    dursOf 0x7FFFFFFF 200000 = 2258632700 := by decide
theorem test_start : startOf 1000 0x00004000 1000 = 1250 ∧ startOf 500 0x00000001 1000 = 500 := by decide

/-! ### One command on a small state -/

/-- Two channels after a SETUP at 8 samples a second, RUNNING, nothing armed; HOST's clock at 1000. -/
def base (a : Atomicity) : State :=
  { State.resetWith 2 { tps := 1000, atomicity := a } with
    sampleRate := 8, running := true, setupDone := true, audioStartTime := 100
    host := { HostInputs.reset with clock := [1000], install := [true], ticks := [false, false, false, false] } }

/-- An Active channel. -/
def tone (inc : Word) (amp : Byte) (dur played phase : Word) : Channel :=
  { Channel.reset with
    phase := phase, phaseIncrement := inc, amplitude := amp, durationSamples := dur, samplesPlayed := played
    active := true }

/-- A Scheduled channel. -/
def armed (start : Time) : Channel := { Channel.reset with phaseIncrement := 5, startTime := start, scheduled := true }

/-- The state an outcome goes on with, if it does. -/
def after (o : Host.Outcome State Fault Refusal) : State :=
  match o with
  | .next s => s
  | .fault _ => State.reset
  | .refused _ => State.reset

/-- The host's word placed on the port at reset runs at the next step, and nothing is left on the port. -/
theorem test_fetch_word :
    (let t := after (step (State.reset.withFetchWord 32 0x14))
     (t.inFlight, t.host.port)) = (some { work := .deliver, writes := [], result := [64] }, []) := by decide
/-- 95_test_vectors.md 2.3: SETUP with INSTALL_OK true, and with INSTALL_OK false. -/
theorem test_setup :
    (let t := after (exec (.setup 11025 0 0) { base .perCommand with setupDone := false, running := false })
     (t.sampleRate, t.running, t.setupDone, t.audioStartTime, t.events)) = (11025, true, true, 1000, []) := by decide
theorem test_setup_fails :
    (let t := after (exec (.setup 0 0 0) { base .perCommand with setupDone := false, running := false })
     (t.sampleRate, t.running, t.events)) = (0, false, [.diagSetupFailed]) := by decide
/-- 95_test_vectors.md S4, S6: PLAY takes the lowest Free channel, and NONE where there is none. -/
theorem test_play :
    (let t := after (exec (.play 200 0x10000 0x8000 0) { base .perCommand with pool := [armed 7, .reset] })
     (t.pool[1]?, t.results)) = (some (tone 0x20000000 200 4 0 0), [1]) := by decide
theorem test_play_full :
    (let s := { base .perCommand with pool := [armed 7, armed 8] }
     let t := after (exec (.play 200 0x10000 0x8000 0) s)
     (t.pool == s.pool, t.results)) = (true, [0xFFFFFFFF]) := by decide
/-- 95_test_vectors.md S9: a delayed PLAY_CH on an Active channel. -/
theorem test_playCh_delayed :
    (let t := after (exec (.playCh 9 1 0x10000 0 0x4000) { base .perCommand with pool := [.reset, tone 1 2 3 4 5] })
     (t.pool[1]?.map fun c => (c.active, c.scheduled, c.startTime, c.phase), t.results)) =
      (some (false, true, 1250, 0), [1]) := by decide
/-- 95_test_vectors.md 2.5: STOP keeps phase and count; CANCEL leaves an Active channel. -/
theorem test_stop :
    (after (exec (.stop 1) { base .perCommand with pool := [.reset, tone 1 2 3 9 5] })).pool[1]? =
      some { tone 1 2 3 9 5 with active := false } := by decide
theorem test_stopAll :
    (after (exec .stopAll { base .perCommand with pool := [armed 7, tone 1 2 3 4 5] })).pool.map Channel.isFree =
      [true, true] := by decide
theorem test_cancel :
    (after (exec (.cancel 1) { base .perCommand with pool := [armed 7, tone 1 2 3 4 5] })).pool[1]? =
      some (tone 1 2 3 4 5) := by decide
theorem test_cancel_scheduled :
    (after (exec (.cancel 0) { base .perCommand with pool := [armed 7, tone 1 2 3 4 5] })).pool[0]? =
      some { armed 7 with scheduled := false } := by decide
/-- 95_test_vectors.md 2.6: a channel whose start time is the present time is promoted, a later one is not. -/
theorem test_update :
    (after (exec .update { base .perCommand with pool := [armed 1000, armed 1001] })).pool =
      [{ tone 5 0 0 0 0 with startTime := 1000 }, armed 1001] := by decide
/-- 95_test_vectors.md 2.8. -/
theorem test_queries :
    (let s := { base .perCommand with pool := [tone 1 2 3 4 5, armed 7] }
     [Instr.findFree, .activeCount, .playingCount, .isActive 0, .isActive 1, .isActive 2, .maxChannels, .startTime].map
       fun i => (after (exec i s)).results) = [[0xFFFFFFFF], [2], [1], [1], [0], [0], [2], [100, 0]] := by decide
theorem test_rebuildList :
    (let t := after (exec .rebuildList { base .perCommand with pool := [.reset, armed 7], snap := [9, 9, 9], snapLen := 3 })
     (t.snap, t.snapLen)) = ([1], 1) := by decide
/-- 95_test_vectors.md T9 (first tick two high, second one low), T6 (expiry). -/
theorem test_tick :
    (let s := { base .perCommand with pool := [tone 0x20000000 200 0 0 0, tone 0x40000000 200 0 0 0] }
     ((s.tickTimes 1).level, (s.tickTimes 2).level)) = (50, 25) := by decide
theorem test_tick_expires :
    (let t := { base .perCommand with pool := [tone 0x20000000 200 2 1 0x20000000] }.ticked
     (t.level, t.pool, t.events)) =
      (0, [{ tone 0x20000000 200 2 2 0x40000000 with active := false }], [.outputLevel 0]) := by decide
/-- 20_memory.md R65: the check of SAMPLE_RATE, its read by CONFIGURE and `now()` are a step each. -/
theorem test_sample_rate_steps :
    (let s := { base .perField with inFlight := some ⟨.playChCheck 9 1 0x10000 0 0x4000, [], []⟩ }
     [1, 2, 3].map fun n => (s.cmdRun n).inFlight.map fun f => (f.work, f.writes.length)) =
      [some (.configure 1 9 0x10000 0 0x4000, 0), some (.configureNow 1 9 0x20000000 0 0x4000, 0),
       some (.deliver, 9)] := by decide
/-- 60_exceptions.md R228: neither a directive's TICKs nor a step change anything after a fault. -/
theorem test_no_tick_after_fault :
    (let s := { base .perField with fault := some ⟨.unconfigured, 2⟩, pool := [tone 5 200 0 0 0] }
     (s.perform (.tick 3) == s, (s.perform (.tick 3)).level)) = (true, 0) := by decide
/-- 95_test_vectors.md 2.10: an illegal word takes no operand word with it. -/
theorem test_illegal_command :
    (let s := base .perField
     let t := after (step { s with host := { s.host with port := [8, 4, 0] } })
     (t.fault, t.host.port)) = (some { code := .illegalCommand, word := 8 }, [4, 0]) := by decide

end Sys2Proof.Tests
end

