-- ==== Sys2Proof/Tests/Witnesses.lean ====
section
/-! SUPPORT. For every statement with hypotheses, a concrete state and operands that meet all of them together, and for
each of its clauses a case at the clause's boundary. -/

namespace Sys2Proof.Tests

open Sys2Proof Sys2Proof.Machine

/-- `base` with words on the port. -/
def ported (a : Atomicity) (ws : List Word) : State := (base a).withPort ws

/-- `base` before its SETUP, RUNNING = 0. -/
def unset (a : Atomicity) : State := { base a with setupDone := false, running := false, sampleRate := 0 }

/-- `base` with two Active channels, the second about to expire. -/
def playing (a : Atomicity) : State :=
  { base a with pool := [tone 0x20000000 200 0 0 0, tone 0x40000000 100 2 1 0] }

/-! ### Decoding -/

theorem witness_DecodeReadsBackEncode : (Instr.playCh 255 0xFFFFFFFF 0 0 0x80000000).wellFormed = true := by decide
theorem witness_EncodeReadsBackDecode : ∃ i rest, decode [0x0000FF02, 1, 2, 3, 4] = some (i, rest) :=
  ⟨.play 255 1 2 3, [4], by decide⟩
/-- Both sides of DecoderAcceptsWellFormed occur. -/
theorem witness_DecoderAcceptsWellFormed :
    RawCommand.wellFormed ⟨4, [0]⟩ = true ∧ RawCommand.wellFormed ⟨4, []⟩ = false := by decide
/-- The first and the last of each range of illegal words, and the legal words beside them. -/
theorem witness_IllegalWordsRejectedAlone :
    ([0x00, 0x08, 0x0F, 0x17, 0xFF, 0x00010005, 0x80000005, 0x0105, 0xFF04].map legalCommandWord) =
      List.replicate 9 false ∧
    ([0x01, 0x07, 0x10, 0x16, 0xFF02, 0x0103].map legalCommandWord) = List.replicate 6 true := by decide

/-! ### The step -/

theorem witness_StepRunsDecodedCommand_running :
    Instr.wellFormed (.stop 1) = true ∧ (ported .perField (encode (.stop 1) ++ [5])).fault = none ∧
    (ported .perField (encode (.stop 1) ++ [5])).inFlight = none ∧
    (ported .perField (encode (.stop 1) ++ [5])).host.port = encode (.stop 1) ++ [5] ∧
    (ported .perField (encode (.stop 1) ++ [5])).running = true ∧
    (ported .perField (encode (.stop 1) ++ [5])).tickAnswer = false := by decide
theorem witness_StepRunsDecodedCommand_stopped :
    (unset .perField).fault = none ∧ (unset .perField).inFlight = none ∧ (unset .perField).running = false ∧
    ((unset .perField).withPort (encode .update)).host.port = encode .update ++ [] := by decide
theorem witness_DeliveredTickRunsNext :
    (let s := { playing .perField with
        inFlight := some ⟨.deliver, [], [1]⟩, host := { HostInputs.reset with ticks := [true] } }
     s.fault = none ∧ s.running = true ∧ s.tickAnswer = true) := by decide
theorem witness_NoTickWhileNotRunning :
    ∃ t, (unset .perField).running = false ∧ step ((unset .perField).withPort [0x10]) = .next t := ⟨_, by decide, rfl⟩
theorem witness_NoTickWhileNotRunning_running :
    ∃ t, (base .perField).running = true ∧ (base .perField).tickAnswer = false ∧ step (base .perField) = .next t :=
  ⟨_, by decide, by decide, rfl⟩
theorem witness_IllegalCommandRecordsFault :
    0x17#8 ≤ (0x17#32).extractLsb' 0 8 ∧ (ported .perField [0x17, 4]).fault = none ∧
    (ported .perField [0x17, 4]).inFlight = none ∧ (ported .perField [0x17, 4]).host.port = 0x17 :: [4] ∧
    (ported .perField [0x17, 4]).running = true ∧ (ported .perField [0x17, 4]).tickAnswer = false ∧
    (unset .perField).running = false := by decide
/-- The first and the last word of each range that IllegalCommandRecordsFault names. -/
theorem witness_IllegalCommandRecordsFault_ranges :
    (0x00#32).extractLsb' 0 8 = 0x00#8 ∧
    [0x08#32, 0x0F#32].all (fun w => decide (0x08#8 ≤ w.extractLsb' 0 8 ∧ w.extractLsb' 0 8 ≤ 0x0F#8)) = true ∧
    [0x17#32, 0xFF#32].all (fun w => decide (0x17#8 ≤ w.extractLsb' 0 8)) = true ∧
    [0x00010005#32, 0x80000002#32].all (fun w => decide (w.extractLsb' 16 16 ≠ 0#16)) = true ∧
    [0x0101#32, 0xFF16#32].all (fun w => decide (w.extractLsb' 8 8 ≠ 0#8 ∧ w.extractLsb' 0 8 ≠ 0x02#8 ∧
      w.extractLsb' 0 8 ≠ 0x03#8)) = true := by decide
theorem witness_RaisingFaultWritesNothingElse :
    ∃ t r, (ported .perField [0x17, 4]).fault = none ∧ step (ported .perField [0x17, 4]) = .next t ∧ t.fault = some r :=
  ⟨_, _, by decide, rfl, rfl⟩
/-- A fault of a command in flight: SETUP with SETUP_DONE = 1. -/
theorem witness_RaisingFaultWritesNothingElse_inFlight :
    (let s := { base .perField with inFlight := some ⟨.setupCheck 8, [], []⟩ }
     ∃ t r, s.fault = none ∧ step s = .next t ∧ t.fault = some r) := ⟨_, _, by decide, rfl, rfl⟩
theorem witness_RecordedFaultStopsBlock :
    ({ base .perField with fault := some ⟨.repeatedSetup, 1⟩ }).fault = some ⟨.repeatedSetup, 1⟩ := by decide
theorem witness_StepStopsOnlyOnRecordedFault : (base .perCommand).fault = none := by decide
/-- The empty port, and a command whose last operand word is missing; RUNNING 0, and RUNNING 1 without a TICK. -/
theorem witness_EmptyPortLeavesBlockWaiting :
    (unset .perField).fault = none ∧ (unset .perField).inFlight = none ∧ (unset .perField).host.port = [] ∧
    (unset .perField).running = false ∧
    (ported .perField [3, 1, 2, 3]).fault = none ∧ (ported .perField [3, 1, 2, 3]).inFlight = none ∧
    (ported .perField [3, 1, 2, 3]).host.port = 3#32 :: [1, 2, 3] ∧ legalCommandWord 3 = true ∧
    ([1, 2, 3] : List Word).length < operandWords (opcField 3) ∧ (ported .perField [3, 1, 2, 3]).running = true ∧
    (ported .perField [3, 1, 2, 3]).tickAnswer = false := by decide
/-- A scripted clock that never goes back. -/
theorem witness_StepsKeepClockOrdered :
    (ported .perCommand [7]).host.clockOrdered ∧ ∃ t, step (ported .perCommand [7]) = .next t := by
  refine ⟨fun j k _ => ?_, _, rfl⟩
  have h : ∀ n, (ported .perCommand [7]).host.nowAt n = 1000 := by intro n; cases n <;> rfl
  rw [h, h]; decide

/-! ### The commands: each hypothesis, under each COMMAND_ATOMICITY -/

theorem witness_SetupInitialisesBlock :
    [Atomicity.perField, .perCommand].map (fun a => ((unset a).setupDone, (unset a).params.atomicity)) =
      [(false, .perField), (false, .perCommand)] := by decide
theorem witness_PlayConfiguresLowestFreeChannel :
    [Atomicity.perField, .perCommand].all
      (fun a => (base a).sampleRate != 0 && (base a).params.atomicity == a) = true := by decide
/-- The last channel in range and the first out of range. -/
theorem witness_PlayChOverwritesNamedChannel :
    (base .perField).sampleRate ≠ 0 ∧ (1 : Word).toNat < (base .perField).pool.length ∧
    (base .perCommand).pool.length ≤ (2 : Word).toNat := by decide
/-- SAMPLE_RATE = 0, as PLAY and PLAY_CH need it to fault, and SETUP_DONE = 1, as SETUP does. -/
theorem witness_FaultsExactlyWhereSpecified :
    (unset .perField).fault = none ∧ (unset .perField).inFlight = none ∧ (unset .perField).sampleRate = 0 ∧ (unset .perField).setupDone = false ∧
    (base .perField).fault = none ∧ (base .perField).sampleRate ≠ 0 ∧ (base .perField).setupDone = true := by decide
/-- STOP, CANCEL and IS_ACTIVE: the last channel in range and the first out of range, under each COMMAND_ATOMICITY. -/
theorem witness_channel_operand_ranges :
    (1 : Word).toNat < (base .perField).pool.length ∧ (base .perField).pool.length ≤ (2 : Word).toNat ∧
    (playing .perCommand).pool[(1 : Word).toNat]? = some (tone 0x40000000 100 2 1 0) ∧
    (base .perField).params.atomicity = .perField ∧ (base .perCommand).params.atomicity = .perCommand := by decide
theorem witness_RebuildListStoresBusyIndices : (base .perCommand).pool.length ≤ 2 ^ 24 := by decide
/-- REBUILD_LIST in its scan, with an entry of SNAP to write. -/
theorem witness_QueryStepsWriteNothing_rebuild :
    ∃ f, { base .perField with inFlight := some ⟨.scan 2 (.rebuild 1), [.snapEntry 0 1], []⟩ }.inFlight = some f ∧
      f.ofRebuild ∧ (base .perField).params.atomicity = .perField :=
  ⟨_, rfl, ⟨rfl, by simp, .inl ⟨2, 1, rfl⟩⟩, rfl⟩
theorem witness_QueryStepsWriteNothing :
    ∃ f, { base .perField with inFlight := some ⟨.scan 1 (.countBusy 1), [], []⟩ }.inFlight = some f ∧ f.ofQuery :=
  ⟨_, rfl, rfl, trivial⟩

/-! ### How commands run -/

theorem witness_PerFieldWithoutTickIsPerCommand :
    Instr.wellFormed .rebuildList = true ∧ (playing .perField).inFlight = none := by decide
theorem witness_PerCommandTakesOneStep :
    ∃ t, (ported .perCommand [5]).params.atomicity = .perCommand ∧ (ported .perCommand [5]).inFlight = none ∧
      step (ported .perCommand [5]) = .next t := ⟨_, by decide, by decide, rfl⟩
theorem witness_EveryCommandEnds :
    ∃ t, (playing .perField).inFlight = none ∧ exec .stopAll (playing .perField) = .next t := ⟨_, by decide, rfl⟩
theorem witness_TickLeavesInactiveChannels :
    ∃ t c, exec .tick { base .perField with pool := [armed 7] } = .next t ∧
      { base .perField with pool := [armed 7] }.pool[0]? = some c ∧ c.active = false := ⟨_, armed 7, rfl, rfl, rfl⟩
/-- An activation by a pending write, and one by a whole command under `per_command`. -/
theorem witness_OnlyArmsAndUpdateActivate_pending :
    (let s := { base .perField with
        inFlight := some ⟨.deliver, [.channel 0 (.active true)], [0]⟩
        host := { (base .perField).host with order := [0] } }
     ∃ t, step s = .next t ∧ s.activeAt 0 = false ∧ t.activeAt 0 = true) := ⟨_, rfl, by decide, by decide⟩
theorem witness_OnlyArmsAndUpdateActivate_command :
    (let s := ported .perCommand [0xC802, 0x10000, 0, 0]
     ∃ t, step s = .next t ∧ s.activeAt 0 = false ∧ t.activeAt 0 = true) := ⟨_, rfl, by decide, by decide⟩

/-- A write that becomes pending by CONFIGURE, one that becomes pending by UPDATE (at its start time), and the start of
each of the commands. -/
theorem witness_OnlyArmsAndUpdateActivate_setUp :
    (let s := { base .perField with inFlight := some ⟨.configure 0 9 5 0 0, [], []⟩ }
     ∃ t, step s = .next t ∧ Write.channel 0 (.active true) ∈ t.pending ∧ s.pending = []) ∧
    (let s := { base .perField with pool := [armed 7], inFlight := some ⟨.updateStart 7 0, [], []⟩ }
     ∃ t, step s = .next t ∧ Write.channel 0 (.active true) ∈ t.pending ∧ s.pending = []) :=
  ⟨⟨_, rfl, by decide, rfl⟩, ⟨_, rfl, by decide, rfl⟩⟩
theorem witness_OnlyArmsAndUpdateActivate_starts :
    (∃ t g, step (ported .perField [0xC802, 0x10000, 0, 0]) = .next t ∧ t.inFlight = some g ∧ g.work.ofArm) ∧
    (∃ t g, step (ported .perField [3, 1, 2, 3, 4]) = .next t ∧ t.inFlight = some g ∧ g.work.ofArm) ∧
    (∃ t g, step (ported .perField [7]) = .next t ∧ t.inFlight = some g ∧ g.work.ofUpdate) :=
  ⟨⟨_, _, rfl, rfl, trivial⟩, ⟨_, _, rfl, rfl, trivial⟩, ⟨_, _, rfl, rfl, trivial⟩⟩

/-! ### Conversions: each clause at its boundary -/

theorem witness_IncrementIsFloorOfFrequency :
    (11025 : Word) ≠ 0 ∧ (0 : Word).toNat * 2 ^ 16 < (11025 : Word).toNat ∧
    2 * (0x00040000 : Word).toNat = (8 : Word).toNat * 2 ^ 16 ∧
    (0x01B80000 : Word).toNat * 2 ^ 16 < (11025 : Word).toNat * 2 ^ 32 := by decide
/-- The least positive DUR, 0, the least DUR, and a positive DUR of less than one sample. -/
theorem witness_DurationIsFloorOfSeconds :
    0 < (1 : Word).toInt ∧ (0 : Word).toInt ≤ 0 ∧ (0x80000000 : Word).toInt ≤ 0 ∧ 0 < (0x7FFFFFFF : Word).toInt ∧
    ((8 : Word).toNat : Int) * (0x1FFF : Word).toInt < 2 ^ 16 := by decide
theorem witness_StartTimeIsNowPlusDelay :
    0 < (1 : Word).toInt ∧ (1 : Word).toInt * (1000 : Nat) < 2 ^ 16 ∧ 0 < (0x7FFFFFFF : Word).toInt := by decide

/-! ### TICK -/

theorem witness_TickAdvancesRetiresAndMixes : (playing .perField).pool.length ≤ 2 ^ 24 := by decide
theorem witness_LevelNeverAboveSixtyThree : (playing .perField).pool.length ≤ 2 ^ 24 := by decide
theorem witness_MixAccumulatorsExactAndOrderFree :
    (playing .perField).pool.length ≤ 2 ^ 24 ∧ [armed 1, armed 2].Perm [armed 2, armed 1] :=
  ⟨by decide, .swap _ _ _⟩
/-- A tone of one sample, the least duration. -/
theorem witness_ToneLivesForItsDuration :
    (let c := tone 5 200 1 0 0
     { base .perField with pool := [c] }.pool[0]? = some c ∧ c.active = true ∧ c.phase = 0 ∧ c.samplesPlayed = 0 ∧
       c.durationSamples ≠ 0 ∧ 0 < c.durationSamples.toNat) := by decide
theorem witness_IndefiniteToneNeverExpires :
    (let c := tone 5 200 0 0xFFFFFFFF 3
     { base .perField with pool := [c] }.pool[0]? = some c ∧ c.active = true ∧ c.durationSamples = 0) := by decide
theorem witness_DegenerateIncrementLevels :
    [(0 : Word), 0x80000000].all (fun inc =>
      let c := tone inc 200 0 0 0
      { base .perField with pool := [c] }.pool == [c] && c.active && c.phase == 0 && c.durationSamples == 0) = true := by
  decide

/-! ### Invariants: a state in the middle of a command -/

/-- `playing` with PLAY_CH's write set half done. -/
def midway : State :=
  { playing .perField with inFlight := some ⟨.deliver, [.channel 0 (.samplesPlayed 0), .channel 0 (.active true)], [0]⟩ }

theorem witness_FlagsInvariantKept : midway.flagsInv ∧ ∃ t, step midway = .next t :=
  ⟨⟨by unfold State.distinctWrites; decide, by unfold Channel.exclusive; decide⟩, _, rfl⟩
theorem witness_SetupInvariantKept : midway.setupInv ∧ ∃ t, step midway = .next t := by
  refine ⟨⟨by unfold State.distinctWrites; decide, by unfold State.runningConfigured; decide, ?_⟩, _, rfl⟩
  rintro f ⟨⟩
  exact .inl (by decide)
theorem witness_RunningNeverCleared :
    midway.setupInv ∧ (∃ t, step midway = .next t) ∧ midway.running = true :=
  ⟨witness_SetupInvariantKept.1, witness_SetupInvariantKept.2, by decide⟩
theorem witness_LevelInvariantKept : midway.levelInv ∧ ∃ t, step midway = .next t :=
  ⟨⟨⟨by decide, by decide⟩, by decide⟩, _, rfl⟩
theorem witness_InvariantsHoldAtReset : (playing .perField).inFlight = none ∧ (playing .perField).flagsInv :=
  ⟨by decide, by unfold State.distinctWrites; decide, by unfold Channel.exclusive; decide⟩
theorem witness_PoolSizeAndParametersConstant : ∃ t, step midway = .next t := ⟨_, rfl⟩

end Sys2Proof.Tests
end

/-! PROOFS. The statements of spec/30_encoding.md: what the block does with an illegal command word (R95, R223). -/

namespace Sys2Proof

/-! ### The fields that make a command word illegal (R95) -/

/-- R95: 0x00, 0x08 to 0x0F and 0x17 to 0xFF are the opcodes that R93 does not assign. -/
theorem assignedOpc_eq_false_iff (opc : Byte) :
    assignedOpc opc = false ↔ opc = 0x00#8 ∨ (0x08#8 ≤ opc ∧ opc ≤ 0x0F#8) ∨ 0x17#8 ≤ opc := by
  simp only [assignedOpc, Bool.or_eq_false_iff, Bool.and_eq_false_iff, decide_eq_false_iff_not]
  bv_omega

/-- R84, R95: a command word is illegal by its OPC, by its RSV or by its VOL. -/
theorem legalCommandWord_eq_false_iff (cw : Word) :
    legalCommandWord cw = false ↔
      assignedOpc (opcField cw) = false ∨ rsvField cw ≠ 0#16 ∨
        (volField cw ≠ 0#8 ∧ opcTakesVol (opcField cw) = false) := by
  simp only [legalCommandWord, Bool.and_eq_false_iff, Bool.or_eq_false_iff, beq_eq_false_iff_ne, or_assoc,
    and_comm (a := opcTakesVol _ = false)]

/-- R84: an opcode takes no VOL where it is neither PLAY's nor PLAY_CH's. -/
theorem opcTakesVol_eq_false_iff (opc : Byte) : opcTakesVol opc = false ↔ opc ≠ 0x02#8 ∧ opc ≠ 0x03#8 := by
  simp only [opcTakesVol, Bool.or_eq_false_iff, beq_eq_false_iff_ne]

/-! ### The command words that the decoder accepts are legal -/

/-- R93, R95: every command has an assigned opcode. -/
@[simp] theorem assignedOpc_byte (o : Opcode) : assignedOpc o.byte = true := by cases o <;> decide

/-- R84: the opcode bytes that take VOL are those of the commands that take it. -/
@[simp] theorem opcTakesVol_byte (o : Opcode) : opcTakesVol o.byte = o.takesVol := by cases o <;> decide

/-- R84, R95: the encoder's command word is legal where VOL is 0 or has a meaning. -/
theorem legalCommandWord_commandWord (o : Opcode) (vol : Byte) (h : o.takesVol = true ∨ vol = 0#8) :
    legalCommandWord (commandWord o vol) = true := by
  have hfields := commandFields_commandWord o vol
  simp only [commandFields, Prod.mk.injEq] at hfields
  obtain ⟨hrsv, hvol, hopc⟩ := hfields
  simpa [legalCommandWord, opcField, volField, rsvField, hrsv, hvol, hopc] using h

/-- R95: the decoder accepts no illegal command word. -/
theorem decodeWord_error_of_not_legal {cw : Word} (h : legalCommandWord cw = false) :
    ∃ why, decodeWord cw = .error why := by
  cases hd : decodeWord cw with
  | error why => exact ⟨why, rfl⟩
  | ok p =>
    obtain ⟨rfl, hvol⟩ := eq_commandWord_of_decodeWord hd
    rw [legalCommandWord_commandWord p.1 p.2 hvol] at h
    cases h

/-- R81, R95: an illegal command word is rejected alone. -/
theorem fetchCommand_of_not_legal {cw : Word} (h : legalCommandWord cw = false) (rest : List Word) :
    ∃ why, fetchCommand (cw :: rest) = .illegal why cw rest := by
  obtain ⟨why, hd⟩ := decodeWord_error_of_not_legal h
  exact ⟨why, by simp only [fetchCommand, hd]⟩

end Sys2Proof

namespace Sys2Proof.Machine

/-! ### The step that meets an illegal command word -/

/-- 60_exceptions.md R230: with RUNNING = 0 the step is CMD's. -/
theorem step_eq_cmdStep_of_not_running {s : State} (hfault : s.fault = none) (hrun : s.running = false) :
    step s = s.cmdStep := by
  simpa [hfault, hrun] using step_cases s

/-- 60_exceptions.md R230: with RUNNING = 1 the step is CMD's where HOST answers that no TICK comes first. -/
theorem step_eq_cmdStep_of_no_tick {s : State} (hfault : s.fault = none) (hrun : s.running = true)
    (htick : s.tickAnswer = false) : step s = s.tickTaken.cmdStep := by
  simpa [hfault, hrun, htick] using step_cases s

/-- 60_exceptions.md R228: with no command in flight a fault changes FAULT alone. -/
theorem State.raiseFault_of_idle {s : State} (h : s.inFlight = none) (code : FaultCode) (word : Word) :
    s.raiseFault code word = { s with fault := some ⟨code, word⟩ } := by
  cases s
  cases h
  rfl

/-- R95, 60_exceptions.md R223: CMD takes an illegal command word, and no word after it, and records it in FAULT. -/
theorem State.cmdStep_of_not_legal {s : State} {cw : Word} {rest : List Word} (hlegal : legalCommandWord cw = false)
    (hidle : s.inFlight = none) (hport : s.host.port = cw :: rest) :
    s.cmdStep =
      .next { s with fault := some ⟨.illegalCommand, cw⟩, host := { s.host with port := rest } } := by
  obtain ⟨why, hfetch⟩ := fetchCommand_of_not_legal hlegal rest
  have hraise : s.cmdStep = .next ((s.withPort rest).raiseFault .illegalCommand cw) := by
    simp only [State.cmdStep, State.startCommand, hidle, hport, hfetch]
  have hidle' : (s.withPort rest).inFlight = none := hidle
  rw [hraise, State.raiseFault_of_idle hidle']
  rfl

/-- Settles O9: the fields named by the statement are those that make the word illegal, and CMD, whose step this is,
rejects it alone. -/
theorem illegalCommandRecordsFault : Obligations.IllegalCommandRecordsFault := by
  refine ⟨rfl, fun cw rest s hfields hfault hidle hport => ?_⟩
  have hlegal : legalCommandWord cw = false := by
    rw [legalCommandWord_eq_false_iff, assignedOpc_eq_false_iff, opcTakesVol_eq_false_iff, or_assoc, or_assoc]
    exact hfields
  refine ⟨fun hrun => ?_, fun hrun htick => ?_⟩
  · rw [step_eq_cmdStep_of_not_running hfault hrun, State.cmdStep_of_not_legal hlegal hidle hport]
  · rw [step_eq_cmdStep_of_no_tick hfault hrun htick,
      State.cmdStep_of_not_legal (s := s.tickTaken) hlegal hidle hport]
    rfl

end Sys2Proof.Machine

/-! PROOFS. The statements of spec/40_scheduler.md: the conversions (R113 to R115) and the commands PLAY, PLAY_CH, STOP,
STOP_ALL, CANCEL and UPDATE (R118 to R123). -/

namespace Sys2Proof.Machine

/-! ### The conversions as numbers (R113 to R115) -/

/-- R113: what INC is before and after its reduction mod 2^32. -/
theorem incOf_toNat (freq sr : Word) :
    (incOf freq sr).toNat = freq.toNat * 2 ^ 16 / sr.toNat % 2 ^ 32 := BitVec.toNat_ofNat _ _

/-- R113: an increment whose floor is below 2^32 is that floor. -/
theorem incOf_toNat_of_lt {freq sr : Word} (h : freq.toNat * 2 ^ 16 / sr.toNat < 2 ^ 32) :
    (incOf freq sr).toNat = freq.toNat * 2 ^ 16 / sr.toNat := by
  rw [incOf_toNat, Nat.mod_eq_of_lt h]

/-- R89: the reading of a positive signed word as a natural number loses nothing. -/
theorem positivePart_eq_toInt {w : Word} (h : 0 < w.toInt) : (positivePart w : Int) = w.toInt :=
  Int.toNat_of_nonneg h.le

/-- R114: DURS of a positive DUR. -/
theorem dursOf_of_pos {dur : Word} (h : 0 < dur.toInt) (sr : Word) :
    dursOf dur sr = BitVec.ofNat 32 (sr.toNat * positivePart dur / 2 ^ 16) := if_pos h

/-- R114: DURS of a DUR that is not positive. -/
theorem dursOf_of_nonpos {dur : Word} (h : dur.toInt ≤ 0) (sr : Word) : dursOf dur sr = 0 := if_neg h.not_gt

/-- Settles O35: the increment is the floor, so each clause is a fact of the division by the sample rate. -/
theorem incrementIsFloorOfFrequency : Obligations.IncrementIsFloorOfFrequency := by
  intro freq sr hsr
  have hpos : 0 < sr.toNat := Nat.pos_of_ne_zero fun h => hsr (BitVec.eq_of_toNat_eq h)
  refine ⟨incOf_toNat freq sr, fun hsmall => ?_, fun hhalf => ?_, fun hnowrap => ?_, by decide⟩
  · rw [incOf, zext, zext, Nat.div_eq_of_lt hsmall]
    rfl
  · have hquot : freq.toNat * 2 ^ 16 = 2 ^ 31 * sr.toNat := by omega
    rw [incOf, zext, zext, hquot, Nat.mul_div_cancel _ hpos]
    rfl
  · rw [incOf_toNat_of_lt (Nat.div_lt_of_lt_mul hnowrap)]
    exact ⟨Nat.div_mul_le_self _ _, (Nat.div_lt_iff_lt_mul hpos).mp (Nat.lt_succ_self _)⟩

/-- Settles O36: the duration is the floor, taken mod 2^32, of a natural number for a positive DUR. -/
theorem durationIsFloorOfSeconds : Obligations.DurationIsFloorOfSeconds := by
  intro dur sr
  refine ⟨fun hpos => ?_, fun hnonpos => dursOf_of_nonpos hnonpos sr, fun hpos hsmall => ?_⟩
  · rw [dursOf_of_pos hpos, BitVec.toNat_ofNat]
    push_cast
    rw [positivePart_eq_toInt hpos]
  · rw [← positivePart_eq_toInt hpos] at hsmall
    rw [dursOf_of_pos hpos, Nat.div_eq_of_lt (by exact_mod_cast hsmall)]
    rfl

/-- Settles O37: the delay in time units is a natural number, added to `now` mod 2^64. -/
theorem startTimeIsNowPlusDelay : Obligations.StartTimeIsNowPlusDelay := by
  intro now delay tps hpos
  refine ⟨?_, fun hsmall => ?_⟩
  · rw [startOf, BitVec.toNat_add, BitVec.toNat_ofNat, Nat.add_mod_mod]
    push_cast
    rw [positivePart_eq_toInt hpos]
  · rw [← positivePart_eq_toInt hpos] at hsmall
    rw [startOf, Nat.div_eq_of_lt (by exact_mod_cast hsmall)]
    exact BitVec.add_zero now

/-! ### What the commands lead to -/

/-- A command that starts with a read has no writes pending. -/
theorem orderFree_nil : orderFree [] := .inr (Nat.zero_le 1)

/-- R110: a command without a result changes nothing as it ends. -/
theorem State.deliver_nil (s : State) : s.deliver [] = { s with inFlight := none } := by
  rw [State.deliver, List.append_nil]

/-- R110: a command that starts with a read, under either COMMAND_ATOMICITY. -/
theorem startsOrEnds_of_startWork {s t : State} {o : Host.Outcome State Fault Refusal} {w : Work} {k : Nat}
    (ho : o = .next (s.startWork w))
    (h : (s.goesOn { work := w, writes := [], result := [] }).leadsTo k { t with inFlight := none })
    (hk : k ≤ 4 * s.channels + 8) : startsOrEnds s o { work := w, writes := [], result := [] } t :=
  startsOrEnds_of_leadsTo ho orderFree_nil h hk

/-- R110: a command that reads nothing and has no result, under either COMMAND_ATOMICITY. -/
theorem startsOrEnds_of_startWrites {s : State} {o : Host.Outcome State Fault Refusal} {ws : List Write}
    (ho : o = .next (s.startWrites ws [])) (hf : orderFree ws) :
    startsOrEnds s o { work := .deliver, writes := ws, result := [] } (s.putAll ws) :=
  startsOrEnds_of_leadsTo ho hf (State.deliver_nil (s.putAll ws) ▸ State.leadsTo_deliver s ws [])
    (show 2 ≤ 4 * s.channels + 8 by omega)

/-- R118: with no Free channel PLAY's scan leads to the answer NONE. -/
theorem State.leadsTo_allocate_of_full {s : State} (vol : Byte) (freq dur delay : Word)
    (h : s.pool.findIdx? (fun c => !c.active && !c.scheduled) = none) :
    (s.goesOn ⟨.scan 0 (.allocate vol freq dur delay), [], []⟩).leadsTo (2 * s.channels + 3)
      { s.answered [noneWord] with inFlight := none } := by
  have hscan := State.leadsTo_search (.allocate vol freq dur delay) rfl (fun _ _ => rfl) s s.channels 0
    (Nat.zero_add _)
  rw [List.drop_zero, h] at hscan
  exact hscan.trans (State.leadsTo_deliver s [] [noneWord])

/-- R118: with a Free channel PLAY's scan leads to CONFIGURE of the lowest-indexed one. -/
theorem State.leadsTo_allocate_of_free {s : State} {i : Nat} (vol : Byte) (freq dur delay : Word)
    (h : s.pool.findIdx? (fun c => !c.active && !c.scheduled) = some i) :
    (s.goesOn ⟨.scan 0 (.allocate vol freq dur delay), [], []⟩).leadsTo (2 * s.channels + 5)
      { s.toneArmed i vol freq dur delay with inFlight := none } := by
  have hscan := State.leadsTo_search (.allocate vol freq dur delay) rfl (fun _ _ => rfl) s s.channels 0
    (Nat.zero_add _)
  simp only [List.drop_zero, h, Nat.zero_add] at hscan
  exact hscan.trans (s.leadsTo_configure i vol freq dur delay)

/-- Two changes of a channel that agree on what it holds. -/
theorem State.channelBecomes_congr {s : State} {i : Nat} {c : Channel} {f g : Channel → Channel}
    (h : s.pool[i]? = some c) (e : f c = g c) : s.channelBecomes i f = s.channelBecomes i g := by
  rw [State.channelBecomes, State.channelBecomes, List.modify_eq_set_getElem?, List.modify_eq_set_getElem?, h]
  simp [e]

/-- A change of a channel that keeps what it holds. -/
theorem State.channelBecomes_of_keeps {s : State} {i : Nat} {c : Channel} {f : Channel → Channel}
    (h : s.pool[i]? = some c) (e : f c = c) : s.channelBecomes i f = s := by
  rw [State.channelBecomes_congr (g := fun c => c) h e, State.channelBecomes, modify_same]

/-- R122: what CANCEL makes of the channel it names. -/
def Channel.disarmed (c : Channel) : Channel := if c.scheduled then { c with scheduled := false } else c

theorem Channel.disarmed_of_scheduled {c : Channel} (h : c.scheduled = true) :
    c.disarmed = { c with scheduled := false } := if_pos h

theorem Channel.disarmed_of_not_scheduled {c : Channel} (h : c.scheduled = false) : c.disarmed = c :=
  if_neg (by simp [h])

/-- R122: CANCEL leads to its channel with `scheduled` cleared where it was 1. -/
theorem State.leadsTo_cancelRead {s : State} {i : Nat} (h : i < s.channels) :
    (s.goesOn ⟨.cancelRead i, [], []⟩).leadsTo 3
      { s.channelBecomes i Channel.disarmed with inFlight := none } := by
  have hc : s.pool[i]? = some s.pool[i] := List.getElem?_eq_getElem h
  have hread := State.leadsTo_read s (.cancelRead i) []
  simp only [State.workStep, State.cancelStep] at hread
  rw [State.scheduledAt_of_getElem? (s := s.goesOn _) hc] at hread
  cases hs : s.pool[i].scheduled with
  | true =>
    rw [hs, if_pos rfl] at hread
    have hend := hread.trans (State.leadsTo_deliver s (onChannel i cancelFields) [])
    rw [State.putAll_onChannel, State.deliver_nil] at hend
    rw [State.channelBecomes_congr (g := fun c => { c with scheduled := false }) hc
      (Channel.disarmed_of_scheduled hs)]
    exact hend
  | false =>
    rw [hs, if_neg Bool.false_ne_true] at hread
    have hend := hread.trans (State.leadsTo_deliver s [] [])
    rw [State.putAll_nil, State.deliver_nil] at hend
    rw [State.channelBecomes_of_keeps hc (Channel.disarmed_of_not_scheduled hs)]
    exact hend

/-! ### How STOP and CANCEL start (R120, R122) -/

/-- R120: STOP in range starts with its write set. -/
theorem exec_stop_of_lt {ch : Word} {s : State} (h : ch.toNat < s.channels) :
    exec (.stop ch) s = .next (s.startWrites (onChannel ch.toNat freeFields) []) := by
  simp only [exec, execStop, channelOf_of_lt h]

/-- R120: STOP out of range has nothing to write. -/
theorem exec_stop_of_ge {ch : Word} {s : State} (h : s.channels ≤ ch.toNat) :
    exec (.stop ch) s = .next (s.startWrites [] []) := by
  simp only [exec, execStop, channelOf_of_ge h]

/-- R122: CANCEL in range starts with its read of `scheduled`. -/
theorem exec_cancel_of_lt {ch : Word} {s : State} (h : ch.toNat < s.channels) :
    exec (.cancel ch) s = .next (s.startWork (.cancelRead ch.toNat)) := by
  simp only [exec, execCancel, channelOf_of_lt h]

/-- R122: CANCEL out of range has nothing to write. -/
theorem exec_cancel_of_ge {ch : Word} {s : State} (h : s.channels ≤ ch.toNat) :
    exec (.cancel ch) s = .next (s.startWrites [] []) := by
  simp only [exec, execCancel, channelOf_of_ge h]

/-! ### The commands (R118 to R123) -/

/-- Settles O16: PLAY faults at its check, or its scan stops at the lowest-indexed Free channel, which CONFIGURE arms,
or comes to the end of the pool. -/
theorem playConfiguresLowestFreeChannel : Obligations.PlayConfiguresLowestFreeChannel := by
  intro vol freq dur delay s
  refine ⟨rfl, ?_⟩
  have hcheck := s.leadsTo_playCheck vol freq dur delay
  by_cases hsr : s.sampleRate = 0
  · rw [if_pos hsr] at hcheck ⊢
    exact startsOrEnds_of_startWork rfl hcheck (by omega)
  · rw [if_neg hsr] at hcheck ⊢
    cases hfree : s.pool.findIdx? (fun c => !c.active && !c.scheduled) with
    | none =>
      exact startsOrEnds_of_startWork rfl
        (hcheck.trans (State.leadsTo_allocate_of_full vol freq dur delay hfree)) (by omega)
    | some i =>
      exact startsOrEnds_of_startWork rfl
        (hcheck.trans (State.leadsTo_allocate_of_free vol freq dur delay hfree)) (by omega)

/-- Settles O17: PLAY_CH faults at its check, or passes to CONFIGURE of the channel it names, or, out of range, to its
answer. -/
theorem playChOverwritesNamedChannel : Obligations.PlayChOverwritesNamedChannel := by
  intro vol ch freq dur delay s
  refine ⟨rfl, ?_⟩
  have hcheck := s.leadsTo_playChCheck vol ch freq dur delay
  by_cases hsr : s.sampleRate = 0
  · rw [if_pos hsr] at hcheck ⊢
    exact startsOrEnds_of_startWork rfl hcheck (by omega)
  · rw [if_neg hsr] at hcheck ⊢
    by_cases hch : ch.toNat < s.channels
    · rw [if_pos hch] at hcheck
      rw [if_pos (show ch.toNat < s.pool.length from hch)]
      exact startsOrEnds_of_startWork rfl
        (hcheck.trans (s.leadsTo_configure ch.toNat vol freq dur delay)) (by omega)
    · rw [if_neg hch] at hcheck
      rw [if_neg (show ¬ ch.toNat < s.pool.length from hch)]
      exact startsOrEnds_of_startWork rfl
        (hcheck.trans (State.leadsTo_deliver s [] [noneWord])) (by omega)

/-- Settles O20: STOP_ALL is its loop, from channel 0 on. -/
theorem stopAllFreesEveryChannel : Obligations.StopAllFreesEveryChannel := by
  refine ⟨rfl, fun s => ?_⟩
  have hloop := State.leadsTo_freeFrom s.channels s 0 (Nat.zero_add _)
  rw [List.take_zero, List.drop_zero, List.nil_append, State.deliver_nil] at hloop
  exact startsOrEnds_of_startWork rfl hloop (by omega)

/-- Settles O22: UPDATE takes one answer to `now()` and then is its loop, from channel 0 on. -/
theorem updatePromotesDueChannels : Obligations.UpdatePromotesDueChannels := by
  refine ⟨rfl, fun s => ?_⟩
  have hloop := State.leadsTo_updateScan s.nowAnswer s.channels s.nowTaken 0 (Nat.zero_add _)
  rw [List.take_zero, List.drop_zero, List.nil_append, State.deliver_nil] at hloop
  have hread := State.leadsTo_read s .updateNow []
  exact startsOrEnds_of_startWork rfl (hread.trans hloop) (by omega)

/-- Settles O19: STOP is its write set of two flag writes, or nothing. -/
theorem stopFreesNamedChannel : Obligations.StopFreesNamedChannel := by
  refine fun ch s => ⟨rfl, fun hlt => ?_, fun hge => ?_⟩
  · have hstop := startsOrEnds_of_startWrites (exec_stop_of_lt hlt) (orderFree_onChannel _ freeFields (by decide))
    rwa [State.putAll_onChannel] at hstop
  · exact startsOrEnds_of_startWrites (exec_stop_of_ge hge) orderFree_nil

/-- Settles O21: CANCEL is its read of `scheduled` and the write that follows it, or nothing. -/
theorem cancelDisarmsScheduledChannel : Obligations.CancelDisarmsScheduledChannel := by
  refine fun ch s => ⟨rfl, fun hlt => ?_, fun hge => ?_⟩
  · exact startsOrEnds_of_startWork (exec_cancel_of_lt hlt) (State.leadsTo_cancelRead hlt) (by omega)
  · exact startsOrEnds_of_startWrites (exec_cancel_of_ge hge) orderFree_nil

end Sys2Proof.Machine

/-! PROOFS. The statements of spec/41_mixer.md: SQUARE (R165) and the whole effect of a TICK (R160 to R166). -/

namespace Sys2Proof.Machine

/-! ### SQUARE on the phase byte (R165) -/

/-- R165: SQUARE with the test on the unsigned value of the phase byte. -/
theorem square_eq (p a : Byte) : square p a = if p.toNat < 128 then a else 0 := rfl

/-- R165: the phase byte is the integer part of `phase / 2^24`. -/
theorem phaseByte_toNat (phase : Word) : (phaseByte phase).toNat = phase.toNat / 2 ^ 24 := by
  rw [phaseByte, BitVec.extractLsb'_toNat, Nat.shiftRight_eq_div_pow]
  exact Nat.mod_eq_of_lt (by omega)

/-- R165: the first half cycle is where `phase[31]` is 0. -/
theorem phaseByte_lt_iff (phase : Word) : (phaseByte phase).toNat < 128 ↔ phase.getLsbD 31 = false := by
  have hmsb : phase.getLsbD 31 = decide (2 ^ 31 ≤ phase.toNat) := BitVec.msb_eq_decide phase
  rw [phaseByte_toNat, hmsb, decide_eq_false_iff_not]
  omega

/-- Settles O39: SQUARE tests the phase byte against 128, which on a phase is a test of its top bit. -/
theorem squareIsHighInFirstHalf : Obligations.SquareIsHighInFirstHalf := by
  refine ⟨square_eq, fun phase a => ?_, fun a => ⟨rfl, rfl⟩⟩
  simp only [square_eq, phaseByte_lt_iff]
  cases phase.getLsbD 31 <;> rfl

/-! ### One channel of a TICK (R161 to R165) -/

/-- R163: a channel with `active` = 1 retires where its duration is not 0 and the new count has reached it. -/
theorem Channel.expiresNow_of_active {c : Channel} (h : c.active = true) :
    c.expiresNow = (decide (0#32 < c.durationSamples) && decide (c.durationSamples ≤ c.samplesPlayed + 1)) := by
  rw [Channel.expiresNow, h, Bool.true_and]
  rfl

/-- R160 to R163: a TICK skips a channel with `active` = 0, advances one with `active` = 1, and retires it where it
expires. -/
theorem Channel.ticked_eq (c : Channel) :
    c.ticked =
      if c.active then
        if 0#32 < c.durationSamples ∧ c.durationSamples ≤ c.samplesPlayed + 1 then
          { c with phase := c.phase + c.phaseIncrement, samplesPlayed := c.samplesPlayed + 1
                   active := false, scheduled := false }
        else { c with phase := c.phase + c.phaseIncrement, samplesPlayed := c.samplesPlayed + 1 }
      else c := by
  cases h : c.active with
  | false => simp only [Channel.ticked, h, Bool.false_eq_true, if_false]
  | true =>
    simp only [Channel.ticked, h, if_true, Channel.expiresNow_of_active h, Bool.and_eq_true, decide_eq_true_eq]
    rfl

/-- R164: the channels that contribute are the Active ones that do not retire on this tick and have an amplitude. -/
theorem Channel.contributes_eq (c : Channel) :
    c.contributes =
      (c.active && !(decide (0#32 < c.durationSamples) && decide (c.durationSamples ≤ c.samplesPlayed + 1))
        && c.amplitude != 0#8) := by
  cases h : c.active with
  | false => simp only [Channel.contributes, h, Bool.false_and]
  | true => rw [Channel.contributes, h, Channel.expiresNow_of_active h]

/-- R165: what a contributing channel adds, as a number. -/
theorem Channel.contribution_toNat (c : Channel) :
    c.contribution.toNat =
      if ((c.phase + c.phaseIncrement).extractLsb' 24 8).toNat < 128 then c.amplitude.toNat else 0 := by
  rw [Channel.contribution, square_eq, apply_ite BitVec.toNat]
  rfl

/-! ### The accumulators of a TICK as exact numbers (R164, R167, R168) -/

/-- R164: `sum` over a pool, as a number that does not wrap. -/
def contributionSum (pool : List Channel) : Nat :=
  ((pool.filter Channel.contributes).map fun c => c.contribution.toNat).sum

/-- R164: a channel that contributes adds its contribution and 1. -/
theorem Mix.add_of_contributes {c : Channel} (h : c.contributes = true) (m : Mix) :
    m.add c = { sum := m.sum + BitVec.ofNat 32 c.contribution.toNat, count := m.count + 1 } := by
  rw [BitVec.ofNat_toNat]
  exact if_pos h

/-- R164: a channel that does not contribute adds nothing. -/
theorem Mix.add_of_not_contributes {c : Channel} (h : c.contributes = false) (m : Mix) : m.add c = m :=
  if_neg (by simp [h])

/-- R164, R168: the scan adds to its accumulators the exact sum and count, mod 2^32. -/
theorem foldl_mixAdd (pool : List Channel) (m : Mix) :
    pool.foldl Mix.add m =
      { sum := m.sum + BitVec.ofNat 32 (contributionSum pool)
        count := m.count + BitVec.ofNat 32 (pool.filter Channel.contributes).length } := by
  induction pool generalizing m with
  | nil => simp [contributionSum]
  | cons c cs ih =>
    rw [List.foldl_cons, ih]
    cases hc : c.contributes with
    | false =>
      simp only [Mix.add_of_not_contributes hc, contributionSum, List.filter_cons, hc, Bool.false_eq_true, if_false]
    | true =>
      simp only [Mix.add_of_contributes hc, contributionSum, List.filter_cons, hc, if_true, List.map_cons,
        List.sum_cons, List.length_cons, BitVec.ofNat_add, BitVec.add_assoc]
      rw [BitVec.add_comm (BitVec.ofNat 32 _) (BitVec.ofNat 32 1)]
      rfl

/-- R168: the accumulators of a TICK hold the exact sum and count, mod 2^32. -/
theorem mixOf_eq (pool : List Channel) :
    mixOf pool =
      { sum := BitVec.ofNat 32 (contributionSum pool)
        count := BitVec.ofNat 32 (pool.filter Channel.contributes).length } := by
  rw [mixOf, foldl_mixAdd]
  simp [Mix.zero]

/-- R167: each contribution is at most 255. -/
theorem contributionSum_le (pool : List Channel) : contributionSum pool ≤ 255 * pool.length := by
  have hbyte : ∀ n ∈ (pool.filter Channel.contributes).map fun c => c.contribution.toNat, n ≤ 255 := by
    simp only [List.mem_map, forall_exists_index, and_imp, forall_apply_eq_imp_iff₂]
    exact fun c _ => Nat.le_of_lt_succ c.contribution.isLt
  have hsum := List.sum_le_card_nsmul _ 255 hbyte
  have hlen := List.length_filter_le Channel.contributes pool
  rw [List.length_map, smul_eq_mul] at hsum
  rw [contributionSum]
  omega

/-- R167, R168: in a pool of legal size (00_scope.md R8) `sum` does not wrap. -/
theorem mixOf_sum_toNat {pool : List Channel} (h : pool.length ≤ 2 ^ 24) :
    (mixOf pool).sum.toNat = contributionSum pool := by
  have hle := contributionSum_le pool
  rw [mixOf_eq]
  exact Nat.mod_eq_of_lt (by omega)

/-- R167, R168: in a pool of legal size (00_scope.md R8) `count` does not wrap. -/
theorem mixOf_count_toNat {pool : List Channel} (h : pool.length ≤ 2 ^ 24) :
    (mixOf pool).count.toNat = (pool.filter Channel.contributes).length := by
  have hle := List.length_filter_le Channel.contributes pool
  rw [mixOf_eq]
  exact Nat.mod_eq_of_lt (by omega)

/-- R166: LEVEL from the accumulators as numbers. -/
theorem Mix.level_eq (m : Mix) :
    m.level =
      if m.count.toNat = 0 then 0 else BitVec.ofNat 8 (clamp (m.sum.toNat / m.count.toNat / 4) 0 255) := by
  simp only [Mix.level, ne_eq, ite_not, BitVec.toNat_eq]
  rfl

/-! ### The whole TICK -/

/-- Settles O38: a TICK maps `Channel.ticked` over the pool, and in a pool of legal size its accumulators are the exact
sum and count of the contributing channels. -/
theorem tickAdvancesRetiresAndMixes : Obligations.TickAdvancesRetiresAndMixes := by
  intro s hlen adds sum out
  have hadds : adds = s.pool.filter Channel.contributes :=
    List.filter_congr fun c _ => (Channel.contributes_eq c).symm
  have hsum : sum = contributionSum s.pool := by
    simp only [sum, hadds, contributionSum, Channel.contribution_toNat]
  have hout : (mixOf s.pool).level = out := by
    rw [Mix.level_eq, mixOf_sum_toNat hlen, mixOf_count_toNat hlen, ← hsum, ← hadds]
  have htick : exec .tick s = .next s.ticked := rfl
  rw [htick, State.ticked, hout, funext Channel.ticked_eq]

end Sys2Proof.Machine

/-! PROOFS. The statements of spec/42_query.md: what the queries answer (R191, R193 to R197) and what REBUILD_LIST
stores (R192). -/

namespace Sys2Proof.Machine

/-! ### The end of a query -/

/-- R110, R190: a query whose last step delivers `r` changes nothing but the results. -/
theorem State.leadsTo_answered (s : State) (r : List Word) :
    (s.goesOn ⟨.deliver, [], r⟩).leadsTo 2 { s.answered r with inFlight := none } :=
  State.leadsTo_deliver s [] r

/-- R110, R190: a query that reads nothing, under either COMMAND_ATOMICITY. -/
theorem startsOrEnds_of_answer {s : State} {o : Host.Outcome State Fault Refusal} {r : List Word}
    (ho : o = .next (s.startWrites [] r)) :
    startsOrEnds s o { work := .deliver, writes := [], result := r } (s.answered r) :=
  startsOrEnds_of_leadsTo ho orderFree_nil (s.leadsTo_answered r) (show 2 ≤ 4 * s.channels + 8 by omega)

/-- R110, R190: a query that starts with a read and comes to the delivery of `r`, under either COMMAND_ATOMICITY. -/
theorem startsOrEnds_of_leadsTo_answer {s : State} {o : Host.Outcome State Fault Refusal} {w : Work} {r : List Word}
    {k : Nat} (ho : o = .next (s.startWork w))
    (h : (s.goesOn { work := w, writes := [], result := [] }).leadsTo k (s.goesOn ⟨.deliver, [], r⟩))
    (hk : k ≤ 4 * s.channels + 6) :
    startsOrEnds s o { work := w, writes := [], result := [] } (s.answered r) :=
  startsOrEnds_of_startWork ho (h.trans (s.leadsTo_answered r)) (by omega)

/-! ### The scans of the two counts (R193, R194) -/

/-- R193, R194: a count's scan of the whole pool, from channel 0 on with nothing counted yet. -/
theorem State.leadsTo_countAll (g : Word → ScanGoal) (p : Channel → Bool) (hp : ∀ n c, (g n).finds c = p c)
    (hb : ∀ (s : State) (j : Nat) (n : Word), s.scanBusy j (g n) = s.worksOn (.scan (j + 1) (g (n + 1))))
    (hf : ∀ (s : State) (j : Nat) (n : Word), s.scanFree j (g n) = s.worksOn (.scan (j + 1) (g n))) (s : State) :
    (s.goesOn ⟨.scan 0 (g 0), [], []⟩).leadsTo (2 * s.channels + 1)
      (s.scanEnd (g (BitVec.ofNat 32 (s.pool.countP p)))) := by
  have hscan := State.leadsTo_count g p hp hb hf s s.channels 0 0 (Nat.zero_add _)
  rwa [List.drop_zero, zero_add] at hscan

/-- R193: ACTIVE_COUNT's scan finds the channels with either flag. -/
theorem ScanGoal.finds_countBusy (n : Word) (c : Channel) :
    (ScanGoal.countBusy n).finds c = (c.active || c.scheduled) := rfl

/-- R194: PLAYING_COUNT's scan, which does not read `scheduled`, finds the channels with `active`. -/
theorem ScanGoal.finds_countActive (n : Word) (c : Channel) : (ScanGoal.countActive n).finds c = c.active :=
  Bool.or_false c.active

/-! ### The list that REBUILD_LIST stores (R192) -/

/-- R192: the busy channels' indices from channel 0 on are those that both flags say. -/
theorem busyFrom_zero_eq_filter (s : State) :
    busyFrom 0 s.pool = (List.range s.pool.length).filter fun i => s.activeAt i || s.scheduledAt i := by
  have hall := busyFrom_eq_filter s s.channels 0 (Nat.zero_add _)
  rwa [List.drop_zero, ← List.range_eq_range'] at hall

/-- 10_state.md R42: the write of SNAP_LEN drops the entries beyond the `n` written so far, where a word can hold
`n`. -/
theorem State.put_snapLen_of_append {s : State} {l rest : List Word} {n : Nat} (hs : s.snap = l ++ rest)
    (hl : l.length = n) (hn : n < 2 ^ 32) :
    s.put (.snapLen (countWord n)) = { s with snap := l, snapLen := BitVec.ofNat 32 n } := by
  have hlen : (countWord n).toNat = l.length := by
    rw [countWord, BitVec.toNat_ofNat, Nat.mod_eq_of_lt hn, hl]
  rw [State.put, hlen, hs, List.take_left]
  rfl

/-- R192: in a pool of legal size REBUILD_LIST's scan and its last write lead to the busy channels' indices in SNAP and
their number in SNAP_LEN. -/
theorem State.leadsTo_rebuildList {s : State} (h : s.pool.length ≤ 2 ^ 24) :
    (s.goesOn ⟨.scan 0 (.rebuild 0), [], []⟩).leadsTo (3 * s.channels + 3)
      { s with
        snap := (busyFrom 0 s.pool).map (BitVec.ofNat 32)
        snapLen := BitVec.ofNat 32 (busyFrom 0 s.pool).length
        inFlight := none } := by
  obtain ⟨rest, hscan⟩ := State.leadsTo_rebuild s.channels s 0 [] s.snap (Nat.zero_add _) rfl
  rw [List.drop_zero, List.nil_append, List.length_nil, Nat.zero_add] at hscan
  have hcount : (busyFrom 0 s.pool).length ≤ s.pool.length :=
    busyFrom_length 0 s.pool ▸ List.countP_le_length
  have hend := hscan.trans (State.leadsTo_deliver _ [.snapLen (countWord (busyFrom 0 s.pool).length)] [])
  rw [State.putAll_cons, State.putAll_nil,
    State.put_snapLen_of_append rfl (List.length_map (BitVec.ofNat 32)) (by omega), State.deliver_nil] at hend
  exact hend

/-! ### How IS_ACTIVE starts (R195) -/

/-- R195: IS_ACTIVE in range starts with its read of `active`. -/
theorem exec_isActive_of_lt {ch : Word} {s : State} (h : ch.toNat < s.channels) :
    exec (.isActive ch) s = .next (s.startWork (.isActiveRead ch.toNat)) := by
  simp only [exec, execIsActive, channelOf_of_lt h]

/-- R195: IS_ACTIVE out of range answers 0 at once. -/
theorem exec_isActive_of_ge {ch : Word} {s : State} (h : s.channels ≤ ch.toNat) :
    exec (.isActive ch) s = .next (s.startWrites [] [0#32]) := by
  simp only [exec, execIsActive, channelOf_of_ge h]
  rfl

/-- R195: IS_ACTIVE's read comes to the channel's `active` bit as a word. -/
theorem State.leadsTo_isActiveRead {s : State} {i : Nat} {c : Channel} (h : s.pool[i]? = some c) :
    (s.goesOn ⟨.isActiveRead i, [], []⟩).leadsTo 1
      (s.goesOn ⟨.deliver, [], [if c.active then 1#32 else 0#32]⟩) := by
  have hread := State.leadsTo_read s (.isActiveRead i) []
  simp only [State.workStep] at hread
  rw [State.activeAt_of_getElem? (s := s.goesOn _) h] at hread
  exact hread

/-! ### The commands -/

/-- Settles O23: FIND_FREE's scan stops at the lowest-indexed Free channel and answers it, or comes to the end of the
pool and answers NONE. -/
theorem findFreeAnswersLowestFree : Obligations.FindFreeAnswersLowestFree := by
  refine ⟨rfl, fun s => ?_⟩
  have hscan := State.leadsTo_search .findFree rfl (fun _ _ => rfl) s s.channels 0 (Nat.zero_add _)
  cases hfree : s.pool.findIdx? (fun c => !c.active && !c.scheduled) with
  | none =>
    simp only [List.drop_zero, hfree] at hscan
    exact startsOrEnds_of_leadsTo_answer rfl hscan (by omega)
  | some i =>
    simp only [List.drop_zero, hfree, Nat.zero_add] at hscan
    exact startsOrEnds_of_leadsTo_answer rfl hscan (by omega)

/-- Settles O24: REBUILD_LIST is its scan, from channel 0 on, and the write of SNAP_LEN. -/
theorem rebuildListStoresBusyIndices : Obligations.RebuildListStoresBusyIndices := by
  refine ⟨rfl, fun s hsize => ?_⟩
  have hlist := State.leadsTo_rebuildList hsize
  rw [busyFrom_length, busyFrom_zero_eq_filter] at hlist
  exact startsOrEnds_of_startWork rfl hlist (by omega)

/-- Settles O25: ACTIVE_COUNT counts, from channel 0 on, the channels that its two reads find busy. -/
theorem activeCountAnswersBusyChannels : Obligations.ActiveCountAnswersBusyChannels := by
  refine ⟨rfl, fun s => ?_⟩
  have hscan := State.leadsTo_countAll .countBusy _ ScanGoal.finds_countBusy (fun _ _ _ => rfl) (fun _ _ _ => rfl) s
  exact startsOrEnds_of_leadsTo_answer rfl hscan (by omega)

/-- Settles O26: PLAYING_COUNT counts, from channel 0 on, the channels that its one read finds Active. -/
theorem playingCountAnswersActiveChannels : Obligations.PlayingCountAnswersActiveChannels := by
  refine ⟨rfl, fun s => ?_⟩
  have hscan := State.leadsTo_countAll .countActive _ ScanGoal.finds_countActive (fun _ _ _ => rfl) (fun _ _ _ => rfl) s
  exact startsOrEnds_of_leadsTo_answer rfl hscan (by omega)

/-- Settles O27: IS_ACTIVE in range and START_TIME are one read and its answer; IS_ACTIVE out of range and MAX_CHANNELS
are their answer alone. -/
theorem plainQueriesAnswerTheirValue : Obligations.PlainQueriesAnswerTheirValue := by
  refine ⟨rfl, rfl, fun ch s => ⟨rfl, fun c hc => ?_, fun hge => ?_, ?_, ?_⟩⟩
  · have hlt : ch.toNat < s.channels := (List.getElem?_eq_some_iff.mp hc).1
    exact startsOrEnds_of_leadsTo_answer (exec_isActive_of_lt hlt) (State.leadsTo_isActiveRead hc) (by omega)
  · exact startsOrEnds_of_answer (exec_isActive_of_ge hge)
  · exact startsOrEnds_of_answer rfl
  · exact startsOrEnds_of_leadsTo_answer rfl (State.leadsTo_read s .startTimeRead []) (by omega)

end Sys2Proof.Machine

/-! PROOFS. The statements of spec/60_exceptions.md: where the model faults are raised (R223 to R225) and what else they
change (R228). -/

namespace Sys2Proof

/-! ### The command words that the decoder rejects are illegal (R95) -/

/-- R93, R95: an opcode byte that names no command is not assigned. -/
theorem assignedOpc_of_opcodeOfByte_none {b : Byte} (h : opcodeOfByte b = none) : assignedOpc b = false := by
  simp only [opcodeOfByte, Opcode.all, List.find?_eq_none, List.forall_mem_cons, Opcode.byte, beq_iff_eq] at h
  rw [assignedOpc_eq_false_iff]
  bv_omega

/-- R84, R95: the decoder rejects no legal command word. -/
theorem not_legal_of_decodeWord_error {cw : Word} {why : Illegal} (h : decodeWord cw = .error why) :
    legalCommandWord cw = false := by
  have hfields : commandFields cw = (rsvField cw, volField cw, opcField cw) := rfl
  simp only [decodeWord, hfields] at h
  rw [legalCommandWord_eq_false_iff]
  cases ho : opcodeOfByte (opcField cw) with
  | none => exact .inl (assignedOpc_of_opcodeOfByte_none ho)
  | some o =>
    have hbyte : o.byte = opcField cw := byte_of_opcodeOfByte ho
    by_cases hrsv : rsvField cw ≠ 0#16
    · exact .inr (.inl hrsv)
    · by_cases hvol : volField cw ≠ 0#8 ∧ o.takesVol = false
      · exact .inr (.inr (by rwa [← hbyte, opcTakesVol_byte]))
      · simp only [ho, if_neg hrsv, if_neg hvol, reduceCtorEq] at h

/-- R81, R95: what the block rejects on the port is an illegal word, and that word alone. -/
theorem port_of_fetchCommand_illegal {ws rest : List Word} {why : Illegal} {cw : Word}
    (h : fetchCommand ws = .illegal why cw rest) : legalCommandWord cw = false ∧ ws = cw :: rest := by
  cases ws with
  | nil => cases h
  | cons w ws =>
    simp only [fetchCommand] at h
    split at h
    · next hd =>
      cases h
      exact ⟨not_legal_of_decodeWord_error hd, rfl⟩
    · split at h <;> cases h

end Sys2Proof

namespace Sys2Proof.Machine

/-! ### The fault of an instruction (R224, R225) -/

/-- R224, R225: the fault that an instruction run alone in `s` raises. -/
def faultOf (s : State) : Instr → Option FaultRecord
  | .setup _ _ _ => if s.setupDone then some ⟨.repeatedSetup, commandWord .setup 0⟩ else none
  | .play vol _ _ _ => if s.sampleRate = 0 then some ⟨.unconfigured, commandWord .play vol⟩ else none
  | .playCh vol _ _ _ _ => if s.sampleRate = 0 then some ⟨.unconfigured, commandWord .playCh vol⟩ else none
  | _ => none

/-- R224, R225: an instruction with a fault starts with the check that raises it. -/
theorem firstInFlight_of_faultOf {s : State} {i : Instr} {r : FaultRecord} (h : faultOf s i = some r) :
    ∃ w, firstInFlight s.channels i = some ⟨w, [], []⟩ ∧ CheckFails s w r.code r.word := by
  cases i with
  | setup sr outPin enPin =>
    obtain ⟨hdone, ⟨⟩⟩ := Option.ite_none_right_eq_some.mp h
    exact ⟨_, rfl, .setup sr hdone⟩
  | play vol freq dur delay =>
    obtain ⟨hsr, ⟨⟩⟩ := Option.ite_none_right_eq_some.mp h
    exact ⟨_, rfl, .play vol freq dur delay hsr⟩
  | playCh vol ch freq dur delay =>
    obtain ⟨hsr, ⟨⟩⟩ := Option.ite_none_right_eq_some.mp h
    exact ⟨_, rfl, .playCh vol ch freq dur delay hsr⟩
  | _ => cases h

/-- R110: how a command starts. -/
theorem exec_of_firstInFlight {s : State} {i : Instr} {f : InFlight} (h : firstInFlight s.channels i = some f) :
    exec i s = .next (s.launch f) := by
  obtain ⟨rfl, _⟩ | ⟨g, hg, hexec⟩ := exec_cases i s
  · cases h
  · cases h.symm.trans hg
    exact hexec

/-! ### A check that fails -/

/-- R224, R225: a check depends on SETUP_DONE and SAMPLE_RATE alone. -/
theorem CheckFails.congr {s t : State} {w : Work} {code : FaultCode} {word : Word} (h : CheckFails s w code word)
    (hdone : t.setupDone = s.setupDone) (hsr : t.sampleRate = s.sampleRate) : CheckFails t w code word := by
  cases h with
  | setup sr hs => exact .setup sr (hdone.trans hs)
  | play vol freq dur delay hs => exact .play vol freq dur delay (hsr.trans hs)
  | playCh vol ch freq dur delay hs => exact .playCh vol ch freq dur delay (hsr.trans hs)

/-- R228: a check that fails does nothing but record its fault and end its command. -/
theorem CheckFails.workStep {s : State} {w : Work} {code : FaultCode} {word : Word} (h : CheckFails s w code word) :
    (s.goesOn ⟨w, [], []⟩).workStep ⟨w, [], []⟩ = s.raiseFault code word := by
  cases h with
  | setup sr hdone => exact if_pos hdone
  | play vol freq dur delay hsr => exact if_pos hsr
  | playCh vol ch freq dur delay hsr => exact if_pos hsr

/-- R228: a command whose first read is a check that fails comes to the recorded fault, under either
COMMAND_ATOMICITY. -/
theorem State.cmdRun_launch_of_checkFails {s : State} {w : Work} {code : FaultCode} {word : Word}
    (h : CheckFails s w code word) : ∃ n, (s.launch ⟨w, [], []⟩).cmdRun n = s.raiseFault code word := by
  obtain ⟨_, hl⟩ | ⟨_, hl⟩ := s.launch_cases ⟨w, [], []⟩
  · refine ⟨1, ?_⟩
    rw [hl, State.cmdRun_step 0 _ _ rfl, State.advance_of_no_writes _ _ rfl, h.workStep]
    rfl
  · refine ⟨0, ?_⟩
    rw [hl, finishFuel, State.finish_read _ _ _ rfl rfl, h.workStep, State.finish_of_idle _ _ rfl]
    rfl

/-! ### The end of every command -/

/-- R111: past its check SETUP comes to its end and faults no more. -/
theorem State.leadsTo_setupNow (s : State) (sr : Word) :
    ∃ t : State, (s.goesOn ⟨.setupNow sr, [], []⟩).leadsTo 5 { t with inFlight := none } ∧ t.fault = s.fault := by
  have hclear := (State.leadsTo_read s (.setupNow sr) []).trans (State.leadsTo_flush _ _ _ _)
  have hask := hclear.trans (State.leadsTo_read _ (.setupInstall sr) [])
  simp only [State.workStep, State.setupInstallStep] at hask
  split at hask
  · exact ⟨_, State.deliver_nil _ ▸ hask.trans (State.leadsTo_deliver _ [.running true] []), by simp⟩
  · exact ⟨_, State.deliver_nil _ ▸ hask.trans (State.leadsTo_deliver _ [.running false] []), by simp⟩

/-- R192: REBUILD_LIST comes to its end without a fault in a pool of any size. -/
theorem State.leadsTo_rebuildList_end (s : State) :
    ∃ t : State, (s.goesOn ⟨.scan 0 (.rebuild 0), [], []⟩).leadsTo (3 * s.channels + 3) { t with inFlight := none } ∧
      t.fault = s.fault := by
  obtain ⟨rest, hscan⟩ := State.leadsTo_rebuild s.channels s 0 [] s.snap (Nat.zero_add _) rfl
  exact ⟨_, State.deliver_nil _ ▸ hscan.trans (State.leadsTo_deliver _ [.snapLen (countWord _)] []), by simp⟩

/-- R112: CONFIGURE raises no fault. -/
@[simp] theorem State.toneArmed_fault (s : State) (i : Nat) (vol : Byte) (freq dur delay : Word) :
    (s.toneArmed i vol freq dur delay).fault = s.fault := by
  unfold State.toneArmed
  split <;> rfl

/-- R110, R224, R225: every command comes to its end, with the fault that `faultOf` says. -/
theorem exec_startsOrEnds {i : Instr} {s : State} (hfault : s.fault = none) (hi : i ≠ .tick) :
    ∃ f u, startsOrEnds s (exec i s) f u ∧ u.fault = faultOf s i := by
  cases i with
  | setup sr outPin enPin =>
    have hcheck := s.leadsTo_setupCheck sr
    by_cases hdone : s.setupDone = true
    · rw [if_pos hdone] at hcheck
      exact ⟨_, { s with fault := some ⟨.repeatedSetup, commandWord .setup 0⟩ },
        startsOrEnds_of_startWork rfl hcheck (by omega), (if_pos hdone).symm⟩
    · rw [if_neg hdone] at hcheck
      obtain ⟨u, hend, hu⟩ := s.leadsTo_setupNow sr
      exact ⟨_, u, startsOrEnds_of_startWork rfl (hcheck.trans hend) (by omega),
        (hu.trans hfault).trans (if_neg hdone).symm⟩
  | play vol freq dur delay =>
    obtain ⟨_, hend⟩ := playConfiguresLowestFreeChannel vol freq dur delay s
    refine ⟨_, _, hend, ?_⟩
    by_cases hsr : s.sampleRate = 0
    · simp [faultOf, hsr, commandWord, Opcode.byte]
    · rw [if_neg hsr, faultOf, if_neg hsr]
      split <;> simp [hfault]
  | playCh vol ch freq dur delay =>
    obtain ⟨_, hend⟩ := playChOverwritesNamedChannel vol ch freq dur delay s
    refine ⟨_, _, hend, ?_⟩
    by_cases hsr : s.sampleRate = 0
    · simp [faultOf, hsr, commandWord, Opcode.byte]
    · rw [if_neg hsr, faultOf, if_neg hsr]
      split <;> simp [hfault]
  | stop ch =>
    obtain ⟨_, hlt, hge⟩ := stopFreesNamedChannel ch s
    obtain h | h := Nat.lt_or_ge ch.toNat s.pool.length
    · exact ⟨_, _, hlt h, hfault⟩
    · exact ⟨_, _, hge h, hfault⟩
  | stopAll => exact ⟨_, _, stopAllFreesEveryChannel.2 s, hfault⟩
  | cancel ch =>
    obtain ⟨_, hlt, hge⟩ := cancelDisarmsScheduledChannel ch s
    obtain h | h := Nat.lt_or_ge ch.toNat s.pool.length
    · exact ⟨_, _, hlt h, hfault⟩
    · exact ⟨_, _, hge h, hfault⟩
  | update => exact ⟨_, _, updatePromotesDueChannels.2 s, hfault⟩
  | findFree => exact ⟨_, _, findFreeAnswersLowestFree.2 s, hfault⟩
  | isActive ch =>
    obtain h | h := Nat.lt_or_ge ch.toNat s.channels
    · exact ⟨_, _, startsOrEnds_of_leadsTo_answer (exec_isActive_of_lt h)
        (State.leadsTo_isActiveRead (List.getElem?_eq_getElem h)) (by omega), hfault⟩
    · exact ⟨_, _, startsOrEnds_of_answer (exec_isActive_of_ge h), hfault⟩
  | activeCount => exact ⟨_, _, activeCountAnswersBusyChannels.2 s, hfault⟩
  | playingCount => exact ⟨_, _, playingCountAnswersActiveChannels.2 s, hfault⟩
  | maxChannels => exact ⟨_, _, startsOrEnds_of_answer rfl, hfault⟩
  | startTime =>
    exact ⟨_, _, startsOrEnds_of_leadsTo_answer rfl (State.leadsTo_read s .startTimeRead []) (by omega), hfault⟩
  | rebuildList =>
    obtain ⟨u, hend, hu⟩ := s.leadsTo_rebuildList_end
    exact ⟨_, u, startsOrEnds_of_startWork rfl hend (by omega), hu.trans hfault⟩
  | tick => exact absurd rfl hi

/-- R110: from the state that its start leaves, a command's steps come to its end, with the fault of its whole effect. -/
theorem startsOrEnds.ends {s u : State} {o : Host.Outcome State Fault Refusal} {f : InFlight}
    (h : startsOrEnds s o f u) :
    ∃ t n, o = .next t ∧ (t.cmdRun n).inFlight = none ∧ (t.cmdRun n).fault = u.fault := by
  obtain ⟨hfield, hcommand⟩ := h
  cases ha : s.params.atomicity with
  | perField =>
    obtain ⟨ho, n, hidle, hvisible⟩ := hfield ha
    have hf : (State.cmdRun n { s with inFlight := some f }).visible.fault = u.fault := by rw [hvisible]; rfl
    exact ⟨_, n, ho, hidle, hf⟩
  | perCommand => exact ⟨_, 0, hcommand ha, rfl, rfl⟩

/-- R224, R225: no fault stands where the start of a command leaves it in flight; where it leaves the command ended, the
fault is the command's own. -/
theorem exec_fault_cases {i : Instr} {s t : State} (hfault : s.fault = none) (h : exec i s = .next t) :
    t.fault = none ∨ t.fault = faultOf s i := by
  by_cases hi : i = .tick
  · subst hi
    cases h
    exact .inl hfault
  · obtain ⟨f, u, ⟨hfield, hcommand⟩, hu⟩ := exec_startsOrEnds hfault hi
    cases ha : s.params.atomicity with
    | perField =>
      obtain ⟨ho, _⟩ := hfield ha
      cases h.symm.trans ho
      exact .inl hfault
    | perCommand =>
      cases h.symm.trans (hcommand ha)
      exact .inr hu

/-- R224, R225, R228: an instruction run alone to its end leaves in FAULT what `faultOf` says, and where that is a fault it
changes nothing else. -/
theorem exec_ends_with_faultOf (i : Instr) {s : State} (hfault : s.fault = none) (hidle : s.inFlight = none) :
    ∃ t n, exec i s = .next t ∧ (t.cmdRun n).inFlight = none ∧ (t.cmdRun n).fault = faultOf s i ∧
      ((t.cmdRun n).fault ≠ none → t.cmdRun n = { s with fault := (t.cmdRun n).fault }) := by
  cases hr : faultOf s i with
  | some r =>
    obtain ⟨w, hfirst, hcheck⟩ := firstInFlight_of_faultOf hr
    obtain ⟨n, hrun⟩ := State.cmdRun_launch_of_checkFails hcheck
    have hexec : exec i s = .next (s.launch ⟨w, [], []⟩) := exec_of_firstInFlight hfirst
    refine ⟨_, n, hexec, ?_⟩
    rw [hrun, State.raiseFault_of_idle hidle]
    exact ⟨hidle, rfl, fun _ => rfl⟩
  | none =>
    by_cases hi : i = .tick
    · subst hi
      exact ⟨_, 0, rfl, hidle, hfault, fun h => absurd hfault h⟩
    · obtain ⟨f, u, hends, hu⟩ := exec_startsOrEnds hfault hi
      obtain ⟨t, n, ho, hend, hf⟩ := hends.ends
      have hnone := hf.trans (hu.trans hr)
      exact ⟨t, n, ho, hend, hnone, fun h => absurd hnone h⟩

/-! ### The faults of a single step (R223 to R225) -/

/-- R223 to R225: the faults that a step from `s` to `t` may record: CMD, idle, takes an illegal word from the port, or a
check fails. -/
inductive StepFaults (s t : State) : FaultRecord → Prop
  | illegal (cw : Word) :
    s.inFlight = none → legalCommandWord cw = false → s.host.port = cw :: t.host.port →
      StepFaults s t ⟨.illegalCommand, cw⟩
  | check {w : Work} {code : FaultCode} {word : Word} : CheckFails s w code word → StepFaults s t ⟨code, word⟩

/-- R223 to R225: where a step of CMD records a fault, it rejects an illegal command word, or a check fails. -/
theorem State.stepFaults_of_cmdStep {s t : State} {r : FaultRecord} (hfault : s.fault = none)
    (hstep : s.cmdStep = .next t) (hr : t.fault = some r) : StepFaults s t r := by
  obtain ⟨f, _, h⟩ | ⟨_, h⟩ | ⟨hidle, why, w, rest, hfetch, h⟩ | ⟨_, i, rest, _, h⟩ := s.cmdStep_cases
  · cases hstep.symm.trans h
    obtain hkept | ⟨code, word, _, hcheck, he⟩ := s.advance_fault_cases f
    · rw [hkept, hfault] at hr
      cases hr
    · rw [he] at hr
      cases hr
      exact .check hcheck
  · cases hstep.symm.trans h
    rw [hfault] at hr
    cases hr
  · cases hstep.symm.trans h
    cases hr
    obtain ⟨hlegal, hport⟩ := port_of_fetchCommand_illegal hfetch
    exact .illegal w hidle hlegal hport
  · have hfault' : (s.withPort rest).fault = none := hfault
    obtain hnone | hown := exec_fault_cases hfault' (h.symm.trans hstep)
    · rw [hnone] at hr
      cases hr
    · obtain ⟨w, _, hcheck⟩ := firstInFlight_of_faultOf (hown.symm.trans hr)
      exact .check (hcheck.congr rfl rfl)

/-- R223 to R225, R230: a TICK records no fault, and HOST's answer that none comes first leaves the registers and the port
that CMD's step reads. -/
theorem stepFaults_of_step {s t : State} {r : FaultRecord} (hfault : s.fault = none) (hstep : step s = .next t)
    (hr : t.fault = some r) : StepFaults s t r := by
  obtain ⟨r', h, _⟩ | ⟨_, _, _, h⟩ | ⟨_, _, _, h⟩ | ⟨_, _, h⟩ := step_cases s
  · rw [hfault] at h
    cases h
  · cases hstep.symm.trans h
    cases hfault.symm.trans hr
  · cases State.stepFaults_of_cmdStep (s := s.tickTaken) hfault (h.symm.trans hstep) hr with
    | illegal cw hidle hlegal hport => exact .illegal cw hidle hlegal hport
    | check hcheck => exact .check (hcheck.congr rfl rfl)
  · exact State.stepFaults_of_cmdStep hfault (h.symm.trans hstep) hr

/-- Settles O18: an instruction's fault is that of the check it starts with, and a step records a fault where CMD rejects
an illegal word or fails such a check. -/
theorem faultsExactlyWhereSpecified : Obligations.FaultsExactlyWhereSpecified := by
  refine ⟨rfl, rfl, fun i s hfault hidle => ?_, fun s t r hfault hstep hr => ?_⟩
  · obtain ⟨t, n, hexec, hend, hf, hframe⟩ := exec_ends_with_faultOf i hfault hidle
    refine ⟨t, n, hexec, hend, ?_, hframe⟩
    rw [hf]
    cases i <;> rfl
  · cases stepFaults_of_step hfault hstep hr with
    | illegal cw hidle hlegal hport => exact ⟨hidle, hlegal, hport⟩
    | check hcheck =>
      cases hcheck with
      | setup sr hdone => exact ⟨hdone, rfl⟩
      | play vol freq dur delay hsr => exact ⟨hsr, vol, .inl rfl⟩
      | playCh vol ch freq dur delay hsr => exact ⟨hsr, vol, .inr rfl⟩

end Sys2Proof.Machine

/-! PROOFS. The statements of spec/70_reset_and_hazards.md: the state at reset (R250). -/

namespace Sys2Proof.Machine

/-- R42, R250: at reset every channel is `Channel.reset`, whatever the length of the pool and the parameters. -/
theorem State.eq_reset_of_mem_pool_resetWith {n : Nat} {p : Params} {c : Channel}
    (hc : c ∈ (State.resetWith n p).pool) : c = Channel.reset :=
  List.eq_of_mem_replicate hc

/-- Settles O14: the pool repeats `Channel.reset`, and each register is a field that `State.resetWith` sets itself. -/
theorem resetHoldsSpecValues : Obligations.ResetHoldsSpecValues :=
  ⟨fun _ hc => State.eq_reset_of_mem_pool_resetWith hc, rfl, rfl, rfl, rfl, rfl, rfl, rfl, rfl, rfl⟩

end Sys2Proof.Machine

/-! PROOFS. The statements of spec/30_encoding.md: the decoder and the encoder are inverse to each other (R80 to R95),
and what the block finds on the port (R80, R81). -/

namespace Sys2Proof

/-! ### Operand words (R93) -/

/-- R84, R93: the instruction that an opcode makes of its operand words encodes to the command word and these words;
its VOL is lost where the opcode takes none. -/
theorem encode_of_takeOperands {o : Opcode} {vol : Byte} {ops rest : List Word} {i : Instr}
    (hvol : o.takesVol = true ∨ vol = 0#8) (h : takeOperands o vol ops = some (i, rest)) :
    i.wellFormed = true ∧ commandWord o vol :: ops = encode i ++ rest := by
  revert h
  fun_cases takeOperands o vol ops <;> rintro ⟨⟩
  case case2 | case3 => exact ⟨rfl, rfl⟩
  all_goals
    obtain ⟨⟨⟩⟩ | rfl := hvol
    exact ⟨rfl, rfl⟩

/-- R80, R93: an instruction takes N operand words. -/
theorem length_of_takeOperands {o : Opcode} {vol : Byte} {ops rest : List Word} {i : Instr}
    (h : takeOperands o vol ops = some (i, rest)) : ops.length = o.operandCount + rest.length := by
  revert h
  fun_cases takeOperands o vol ops <;> rintro ⟨⟩ <;> simp only [List.length_cons, Opcode.operandCount] <;> omega

/-- R80, R93: where N operand words stand, an instruction is made of them. -/
theorem takeOperands_of_le_length {o : Opcode} (vol : Byte) {ops : List Word} (h : o.operandCount ≤ ops.length) :
    ∃ i rest, takeOperands o vol ops = some (i, rest) := by
  cases o with
  | setup | play => match ops, h with | _ :: _ :: _ :: _, _ => exact ⟨_, _, rfl⟩
  | playCh => match ops, h with | _ :: _ :: _ :: _ :: _, _ => exact ⟨_, _, rfl⟩
  | stop | cancel | isActive => match ops, h with | _ :: _, _ => exact ⟨_, _, rfl⟩
  | _ => exact ⟨_, _, rfl⟩

/-- R81: where fewer than N operand words stand, no instruction is made. -/
theorem takeOperands_of_length_lt {o : Opcode} (vol : Byte) {ops : List Word} (h : ops.length < o.operandCount) :
    takeOperands o vol ops = none := by
  rw [Option.eq_none_iff_forall_ne_some]
  rintro ⟨i, rest⟩ hsome
  have hlen := length_of_takeOperands hsome
  omega

/-! ### The decoder on the port -/

/-- R80: the decoder reads what CMD finds on the port as a whole command. -/
theorem decode_eq_some_iff {ws rest : List Word} {i : Instr} :
    decode ws = some (i, rest) ↔ fetchCommand ws = .command i rest := by
  unfold decode
  cases fetchCommand ws <;> simp

/-- R84, R95: the legal command words are those of a command with a VOL that is 0 or has a meaning. -/
theorem exists_commandWord_of_legal {cw : Word} (h : legalCommandWord cw = true) :
    ∃ o vol, cw = commandWord o vol ∧ (o.takesVol = true ∨ vol = 0#8) := by
  cases hd : decodeWord cw with
  | error why =>
    rw [not_legal_of_decodeWord_error hd] at h
    cases h
  | ok p => exact ⟨p.1, p.2, eq_commandWord_of_decodeWord hd⟩

/-- R93: the number of operand words by the opcode byte is that of the command. -/
@[simp] theorem operandWords_opcField_commandWord (o : Opcode) (vol : Byte) :
    operandWords (opcField (commandWord o vol)) = o.operandCount := by
  have hfields := commandFields_commandWord o vol
  simp only [commandFields, Prod.mk.injEq] at hfields
  obtain ⟨_, _, hopc⟩ := hfields
  rw [opcField, hopc]
  cases o <;> rfl

/-- R80, R93: the command that CMD finds behind a legal command word is made of the operand words after it. -/
theorem fetchCommand_of_takeOperands {o : Opcode} {vol : Byte} {ops rest : List Word} {i : Instr}
    (hvol : o.takesVol = true ∨ vol = 0#8) (h : takeOperands o vol ops = some (i, rest)) :
    fetchCommand (commandWord o vol :: ops) = .command i rest := by
  simp only [fetchCommand, decodeWord_commandWord o vol hvol, h]

/-- R81: behind a legal command word with fewer than N operand words CMD finds no whole command. -/
theorem fetchCommand_of_operands_missing {o : Opcode} {vol : Byte} {ops : List Word}
    (hvol : o.takesVol = true ∨ vol = 0#8) (h : ops.length < o.operandCount) :
    fetchCommand (commandWord o vol :: ops) = .partialCommand (commandWord o vol) := by
  simp only [fetchCommand, decodeWord_commandWord o vol hvol, takeOperands_of_length_lt vol h]

/-- R80, R93: what the decoder reads is a command word it accepts and the operand words after it. -/
theorem decode_eq_some_iff_takeOperands {ws rest : List Word} {i : Instr} :
    decode ws = some (i, rest) ↔
      ∃ o vol ops, ws = commandWord o vol :: ops ∧ (o.takesVol = true ∨ vol = 0#8) ∧
        takeOperands o vol ops = some (i, rest) := by
  rw [decode_eq_some_iff]
  refine ⟨fun h => ?_, ?_⟩
  · cases ws with
    | nil => cases h
    | cons cw ops =>
      cases hlegal : legalCommandWord cw with
      | false =>
        obtain ⟨why, hfetch⟩ := fetchCommand_of_not_legal hlegal ops
        cases hfetch.symm.trans h
      | true =>
        obtain ⟨o, vol, rfl, hvol⟩ := exists_commandWord_of_legal hlegal
        refine ⟨o, vol, ops, rfl, hvol, ?_⟩
        obtain hlt | hle := Nat.lt_or_ge ops.length o.operandCount
        · cases (fetchCommand_of_operands_missing hvol hlt).symm.trans h
        · obtain ⟨_, _, htake⟩ := takeOperands_of_le_length vol hle
          cases (fetchCommand_of_takeOperands hvol htake).symm.trans h
          exact htake
  · rintro ⟨o, vol, ops, rfl, hvol, htake⟩
    exact fetchCommand_of_takeOperands hvol htake

/-- R93: an instruction's words are a command word the decoder accepts and operand words that make it again. -/
theorem takeOperands_of_encode {i : Instr} (h : i.wellFormed = true) (rest : List Word) :
    ∃ o vol ops, encode i ++ rest = commandWord o vol :: ops ∧ (o.takesVol = true ∨ vol = 0#8) ∧
      takeOperands o vol ops = some (i, rest) := by
  cases i with
  | tick => cases h
  | play vol | playCh vol => exact ⟨_, vol, _, rfl, .inl rfl, rfl⟩
  | _ => exact ⟨_, 0, _, rfl, .inr rfl, rfl⟩

/-- Settles O1: an instruction's words are a command word and operand words, of which the decoder makes it again. -/
theorem decodeReadsBackEncode : Obligations.DecodeReadsBackEncode :=
  fun _ rest h => decode_eq_some_iff_takeOperands.mpr (takeOperands_of_encode h rest)

/-- Settles O2: what the decoder reads was made of a command word and operand words, which are its encoding. -/
theorem encodeReadsBackDecode : Obligations.EncodeReadsBackDecode := by
  intro ws i rest h
  obtain ⟨o, vol, ops, rfl, hvol, htake⟩ := decode_eq_some_iff_takeOperands.mp h
  exact encode_of_takeOperands hvol htake

/-- Settles O3: a legal command word is that of an opcode, which makes an instruction and leaves nothing exactly of
its N operand words. -/
theorem decoderAcceptsWellFormed : Obligations.DecoderAcceptsWellFormed := by
  rintro ⟨cw, ops⟩
  simp only [RawCommand.wellFormed, Bool.and_eq_true, beq_iff_eq, decode_eq_some_iff_takeOperands]
  constructor
  · rintro ⟨hlegal, hlen⟩
    obtain ⟨o, vol, rfl, hvol⟩ := exists_commandWord_of_legal hlegal
    rw [operandWords_opcField_commandWord] at hlen
    obtain ⟨i, rest, htake⟩ := takeOperands_of_le_length vol hlen.ge
    have hrest : rest = [] := List.eq_nil_of_length_eq_zero (by have := length_of_takeOperands htake; omega)
    exact ⟨i, o, vol, ops, rfl, hvol, hrest ▸ htake⟩
  · rintro ⟨i, o, vol, _, ⟨⟩, hvol, htake⟩
    exact ⟨legalCommandWord_commandWord o vol hvol,
      (length_of_takeOperands htake).trans (operandWords_opcField_commandWord o vol).symm⟩

/-- Settles O4: an illegal word is rejected alone, and what is rejected is illegal. -/
theorem illegalWordsRejectedAlone : Obligations.IllegalWordsRejectedAlone :=
  fun _ rest => ⟨fun h => fetchCommand_of_not_legal h rest, fun ⟨_, h⟩ => (port_of_fetchCommand_illegal h).1⟩

/-- Settles O5: each sample is a few words, on which the decoder is run. -/
theorem sampleWordsDecode : Obligations.SampleWordsDecode := by
  refine ⟨?_, ?_, ?_, ?_, ?_, ?_, ?_, ?_, ?_⟩ <;> decide

end Sys2Proof

/-! PROOFS. The statements of spec/41_mixer.md about LEVEL (R167, R168) and about a channel over many TICKs (R163,
R169, R171; spec/20_memory.md R73). -/

namespace Sys2Proof.Machine

/-! ### The bounds of the accumulators (R167, R168) -/

/-- R164, R167: `sum` is at most 255 for each channel that contributes. -/
theorem contributionSum_le_contributing (pool : List Channel) :
    contributionSum pool ≤ 255 * (pool.filter Channel.contributes).length := by
  have hidem : contributionSum (pool.filter Channel.contributes) = contributionSum pool := by
    rw [contributionSum, List.filter_filter]
    simp only [Bool.and_self, contributionSum]
  exact hidem ▸ contributionSum_le (pool.filter Channel.contributes)

/-- R167: in a pool of legal size the mean of the contributions is at most 255. -/
theorem mixOf_mean_le {pool : List Channel} (h : pool.length ≤ 2 ^ 24) :
    (mixOf pool).sum.toNat / (mixOf pool).count.toNat ≤ 255 := by
  rw [mixOf_sum_toNat h, mixOf_count_toNat h]
  exact Nat.div_le_of_le_mul (Nat.mul_comm 255 _ ▸ contributionSum_le_contributing pool)

/-- R166: where the mean of the contributions is at most 255, LEVEL is a quarter of it. -/
theorem Mix.level_toNat {m : Mix} (h : m.sum.toNat / m.count.toNat ≤ 255) :
    m.level.toNat = m.sum.toNat / m.count.toNat / 4 := by
  rw [Mix.level_eq]
  by_cases hcount : m.count.toNat = 0
  · simp [hcount]
  · rw [if_neg hcount, BitVec.toNat_ofNat, clamp]
    generalize m.sum.toNat / m.count.toNat = mean at h ⊢
    omega

/-- R167: LEVEL of a pool of legal size is at most 63. -/
theorem mixOf_level_le {pool : List Channel} (h : pool.length ≤ 2 ^ 24) : (mixOf pool).level ≤ 63#8 := by
  have hmean := mixOf_mean_le h
  rw [BitVec.le_def, Mix.level_toNat hmean]
  exact Nat.div_le_div_right hmean

/-- Settles O40: the mean of the contributions is at most 255, and a quarter of it at most 63. -/
theorem levelNeverAboveSixtyThree : Obligations.LevelNeverAboveSixtyThree :=
  fun _ h => ⟨mixOf_level_le h, by rw [Nat.div_div_eq_div_mul, Nat.mul_comm]⟩

/-- R168: the sum of the contributions does not depend on the scan order. -/
theorem contributionSum_of_perm {p q : List Channel} (h : p.Perm q) : contributionSum p = contributionSum q :=
  ((h.filter _).map _).sum_eq

/-- Settles O41: the accumulators are exact numbers that do not wrap in a pool of legal size, and, in any pool,
functions of the sum and the number of the contributing channels. -/
theorem mixAccumulatorsExactAndOrderFree : Obligations.MixAccumulatorsExactAndOrderFree := by
  refine ⟨fun pool h => ⟨mixOf_sum_toNat h, mixOf_count_toNat h, ?_, ?_⟩, fun p q h => ?_⟩
  · exact mixOf_sum_toNat h ▸ contributionSum_le pool
  · exact mixOf_count_toNat h ▸ List.length_filter_le Channel.contributes pool
  · rw [mixOf_eq, mixOf_eq, contributionSum_of_perm h, (h.filter _).length_eq]

/-! ### A channel over many TICKs (R161 to R163) -/

/-- R160: a TICK skips a channel with `active` = 0. -/
theorem Channel.ticked_of_not_active {c : Channel} (h : c.active = false) : c.ticked = c := by
  simp [Channel.ticked, h]

/-- Settles O32: a TICK maps over the pool a function that skips the channels with `active` = 0. -/
theorem tickLeavesInactiveChannels : Obligations.TickLeavesInactiveChannels := by
  rintro s _ i c ⟨⟩ hc hactive
  rw [State.ticked_pool, List.getElem?_map, hc, Option.map_some, Channel.ticked_of_not_active hactive]

/-- R161, R162: a channel whose phase and count have advanced for `k` TICKs. -/
def Channel.advanced (c : Channel) (k : Nat) : Channel :=
  { c with
    phase := c.phase + BitVec.ofNat 32 k * c.phaseIncrement
    samplesPlayed := c.samplesPlayed + BitVec.ofNat 32 k }

theorem Channel.advanced_phase (c : Channel) (k : Nat) :
    (c.advanced k).phase = c.phase + BitVec.ofNat 32 k * c.phaseIncrement := rfl

@[simp] theorem Channel.advanced_zero (c : Channel) : c.advanced 0 = c := by simp [Channel.advanced]

/-- R161: the phase that the next TICK gives a channel advanced for `k` TICKs. -/
theorem Channel.nextPhase_advanced (c : Channel) (k : Nat) : (c.advanced k).nextPhase = (c.advanced (k + 1)).phase := by
  simp only [Channel.nextPhase, Channel.advanced, BitVec.ofNat_add, BitVec.add_mul, BitVec.add_assoc]
  simp

/-- R162: the count that the next TICK gives a channel advanced for `k` TICKs. -/
theorem Channel.nextPlayed_advanced (c : Channel) (k : Nat) :
    (c.advanced k).nextPlayed = (c.advanced (k + 1)).samplesPlayed := by
  simp only [Channel.nextPlayed, Channel.advanced, BitVec.ofNat_add, BitVec.add_assoc]

/-- R163: whether a channel with `active` = 1, advanced for `k` TICKs, retires on the next. -/
theorem Channel.expiresNow_advanced {c : Channel} (h : c.active = true) (k : Nat) :
    (c.advanced k).expiresNow = expires c.durationSamples (c.samplesPlayed + BitVec.ofNat 32 (k + 1)) := by
  have hactive : (c.advanced k).active = true := h
  rw [Channel.expiresNow, hactive, Bool.true_and, Channel.nextPlayed_advanced]
  rfl

/-- R160 to R163: a channel that does not retire on its next TICK advances. -/
theorem Channel.ticked_advanced {c : Channel} {k : Nat} (hactive : c.active = true)
    (h : (c.advanced k).expiresNow = false) : (c.advanced k).ticked = c.advanced (k + 1) := by
  have hactive' : (c.advanced k).active = true := hactive
  rw [Channel.ticked, if_pos hactive', h, if_neg Bool.false_ne_true, Channel.nextPhase_advanced,
    Channel.nextPlayed_advanced]
  rfl

/-- R163: a channel that retires on its next TICK advances and is Free. -/
theorem Channel.ticked_advanced_of_expires {c : Channel} {k : Nat} (hactive : c.active = true)
    (h : (c.advanced k).expiresNow = true) :
    (c.advanced k).ticked = { c.advanced (k + 1) with active := false, scheduled := false } := by
  have hactive' : (c.advanced k).active = true := hactive
  rw [Channel.ticked, if_pos hactive', h, if_pos rfl, Channel.nextPhase_advanced, Channel.nextPlayed_advanced]
  rfl

/-- R99: one TICK more. -/
theorem State.tickTimes_succ (k : Nat) (s : State) : s.tickTimes (k + 1) = (s.tickTimes k).ticked := by
  induction k generalizing s with
  | zero => rfl
  | succ k ih => exact ih s.ticked

/-- R161 to R163: an Active channel that retires on none of its first `k` TICKs has advanced for `k` TICKs. -/
theorem State.tickTimes_getElem? {s : State} {i : Nat} {c : Channel} (hc : s.pool[i]? = some c)
    (hactive : c.active = true) (k : Nat) (h : ∀ j < k, (c.advanced j).expiresNow = false) :
    (s.tickTimes k).pool[i]? = some (c.advanced k) := by
  induction k with
  | zero => simpa [State.tickTimes] using hc
  | succ k ih =>
    have hprev := ih fun j hj => h j (Nat.lt_succ_of_lt hj)
    rw [State.tickTimes_succ, State.ticked_pool, List.getElem?_map, hprev, Option.map_some,
      Channel.ticked_advanced hactive (h k (Nat.lt_succ_self k))]

/-! ### Tones (R163, R169) -/

/-- R163: the expiry test is never met where the duration is 0. -/
theorem expires_zero (played : Word) : expires 0 played = false := rfl

/-- R163: the expiry test of a duration on a count that has not wrapped. -/
theorem expires_ofNat (duration : Word) {k : Nat} (hk : k < 2 ^ 32) :
    expires duration (BitVec.ofNat 32 k) = (decide (0 < duration.toNat) && decide (duration.toNat ≤ k)) := by
  simp only [expires, BitVec.lt_def, BitVec.le_def, BitVec.toNat_ofNat, Nat.mod_eq_of_lt hk, Nat.zero_mod]

/-- R163: an Active channel with duration 0 retires on no TICK. -/
theorem Channel.expiresNow_advanced_of_indefinite {c : Channel} (hactive : c.active = true)
    (hdur : c.durationSamples = 0) (k : Nat) : (c.advanced k).expiresNow = false := by
  rw [Channel.expiresNow_advanced hactive, hdur, expires_zero]

/-- Settles O43: a channel with duration 0 retires on no TICK, so it advances on each. -/
theorem indefiniteToneNeverExpires : Obligations.IndefiniteToneNeverExpires :=
  fun _ _ k _ hc hactive hdur =>
    State.tickTimes_getElem? hc hactive k fun j _ => Channel.expiresNow_advanced_of_indefinite hactive hdur j

/-- R163, R169: a tone with a duration retires on the TICK on which its count, from 0, has reached it. -/
theorem Channel.expiresNow_advanced_of_fresh {c : Channel} (hactive : c.active = true) (hplayed : c.samplesPlayed = 0)
    (hdur : 0 < c.durationSamples.toNat) {k : Nat} (hk : k < c.durationSamples.toNat) :
    (c.advanced k).expiresNow = decide (c.durationSamples.toNat ≤ k + 1) := by
  have hlt := c.durationSamples.isLt
  rw [Channel.expiresNow_advanced hactive, hplayed, zero_add, expires_ofNat _ (by omega), decide_eq_true hdur,
    Bool.true_and]

/-- R169: a fresh tone advanced for `k` TICKs. -/
theorem Channel.advanced_of_fresh {c : Channel} (hphase : c.phase = 0) (hplayed : c.samplesPlayed = 0) (k : Nat) :
    c.advanced k =
      { c with phase := BitVec.ofNat 32 (k * c.phaseIncrement.toNat), samplesPlayed := BitVec.ofNat 32 k } := by
  rw [Channel.advanced, hphase, hplayed, zero_add, zero_add, BitVec.ofNat_mul, BitVec.ofNat_toNat,
    BitVec.setWidth_eq]

/-- Settles O42: the count starts at 0, so the tone retires on the TICK that makes it D and on none before. -/
theorem toneLivesForItsDuration : Obligations.ToneLivesForItsDuration := by
  intro s i c hc hactive hphase hplayed hdur
  have hpos : 0 < c.durationSamples.toNat := Nat.pos_of_ne_zero fun h => hdur (BitVec.eq_of_toNat_eq h)
  have halive : ∀ k < c.durationSamples.toNat, (s.tickTimes k).pool[i]? = some (c.advanced k) := fun k hk =>
    State.tickTimes_getElem? hc hactive k fun j hj => by
      rw [Channel.expiresNow_advanced_of_fresh hactive hplayed hpos (by omega), decide_eq_false (by omega)]
  refine ⟨fun k hk => Channel.advanced_of_fresh hphase hplayed k ▸ halive k hk, ?_⟩
  obtain ⟨d, hd⟩ := Nat.exists_eq_succ_of_ne_zero hpos.ne'
  have hlast : (c.advanced d).expiresNow = true := by
    rw [Channel.expiresNow_advanced_of_fresh hactive hplayed hpos (by omega), decide_eq_true (by omega)]
  have hword : BitVec.ofNat 32 (d + 1) = c.durationSamples := by
    rw [← Nat.succ_eq_add_one, ← hd, BitVec.ofNat_toNat, BitVec.setWidth_eq]
  rw [hd, State.tickTimes_succ, State.ticked_pool, List.getElem?_map, halive d (by omega), Option.map_some,
    Channel.ticked_advanced_of_expires hactive hlast, Channel.advanced, hphase, hplayed, hword]
  simp

/-! ### A lone tone (R171, 90_conflicts.md C3) -/

/-- R164 to R166: LEVEL of a lone channel that is Active and does not retire is a quarter of its contribution. -/
theorem mixOf_singleton_level {c : Channel} (hactive : c.active = true) (h : c.expiresNow = false) :
    (mixOf [c]).level.toNat = c.contribution.toNat / 4 := by
  have hsize : [c].length ≤ 2 ^ 24 := Nat.one_le_two_pow
  rw [Mix.level_toNat (mixOf_mean_le hsize), mixOf_sum_toNat hsize, mixOf_count_toNat hsize, contributionSum]
  by_cases hamp : c.amplitude = 0#8
  · have hzero : c.contribution = 0#8 := by rw [Channel.contribution, hamp, square, ite_self]
    simp [Channel.contributes, hamp, hzero]
  · simp [Channel.contributes, hactive, h, hamp]

/-- R171: LEVEL after `k + 1` TICKs of a lone tone with duration 0 is a quarter of SQUARE at its phase. -/
theorem State.tickTimes_level_of_lone {s : State} {c : Channel} (hpool : s.pool = [c]) (hactive : c.active = true)
    (hdur : c.durationSamples = 0) (k : Nat) :
    (s.tickTimes (k + 1)).level.toNat =
      (square (phaseByte (c.advanced (k + 1)).phase) c.amplitude).toNat / 4 := by
  have halive := Channel.expiresNow_advanced_of_indefinite hactive hdur
  have hpool' : (s.tickTimes k).pool = [c.advanced k] := by
    induction k with
    | zero => simpa [State.tickTimes] using hpool
    | succ k ih =>
      rw [State.tickTimes_succ, State.ticked_pool, ih, List.map_singleton,
        Channel.ticked_advanced hactive (halive k)]
  rw [State.tickTimes_succ, State.ticked_level, hpool', mixOf_singleton_level (c := c.advanced k) hactive (halive k),
    Channel.contribution, Channel.nextPhase_advanced]
  rfl

/-- R171: half the sample rate adds half a cycle on each TICK. -/
theorem phaseByte_halfCycles (k : Nat) :
    (phaseByte (BitVec.ofNat 32 k * 0x80000000#32)).toNat < 128 ↔ k % 2 = 0 := by
  rw [phaseByte_toNat, BitVec.toNat_mul, BitVec.toNat_ofNat, Nat.mod_mul_mod]
  simp only [BitVec.toNat_ofNat]
  omega

/-- Settles O44: with increment 0 the phase stays 0; with half a cycle for each TICK it is half a cycle after an odd
number of them and 0 after an even number. -/
theorem degenerateIncrementLevels : Obligations.DegenerateIncrementLevels := by
  intro s c k hpool hactive hphase hdur
  have hlevel := State.tickTimes_level_of_lone hpool hactive hdur k
  rw [Channel.advanced_phase, hphase, zero_add] at hlevel
  refine ⟨fun hinc => ?_, fun hinc => ?_⟩
  · rw [hlevel, hinc, mul_zero]
    rfl
  · rw [hlevel, hinc, square_eq, apply_ite BitVec.toNat]
    simp only [phaseByte_halfCycles]
    by_cases hk : k % 2 = 0
    · rw [if_pos hk, if_neg (by omega)]
      rfl
    · rw [if_neg hk, if_pos (by omega)]

end Sys2Proof.Machine

/-! PROOFS. What a read of the command in flight can do (spec/20_memory.md R65; spec/40_scheduler.md,
spec/42_query.md), said once for all commands, and what every step of CMD keeps because reads, writes and the start of
a command keep it. -/

namespace Sys2Proof.Machine

/-! ### Reads -/

/-- What a scan goes on with behind a busy channel `j`. -/
def ScanGoal.afterBusy (j : Nat) : ScanGoal → InFlight
  | .allocate vol freq dur delay => ⟨.scan (j + 1) (.allocate vol freq dur delay), [], []⟩
  | .findFree => ⟨.scan (j + 1) .findFree, [], []⟩
  | .countBusy n => ⟨.scan (j + 1) (.countBusy (n + 1)), [], []⟩
  | .countActive n => ⟨.scan (j + 1) (.countActive (n + 1)), [], []⟩
  | .rebuild n => ⟨.scan (j + 1) (.rebuild (n + 1)), [.snapEntry n (countWord j)], []⟩

/-- What a scan goes on with where it found channel `j` not busy. -/
def ScanGoal.afterFree (j : Nat) : ScanGoal → InFlight
  | .allocate vol freq dur delay => ⟨.configure j vol freq dur delay, [], []⟩
  | .findFree => ⟨.deliver, [], [countWord j]⟩
  | .countBusy n => ⟨.scan (j + 1) (.countBusy n), [], []⟩
  | .countActive n => ⟨.scan (j + 1) (.countActive n), [], []⟩
  | .rebuild n => ⟨.scan (j + 1) (.rebuild n), [], []⟩

/-- What a scan goes on with at the end of the pool. -/
def ScanGoal.atEnd : ScanGoal → InFlight
  | .allocate _ _ _ _ | .findFree => ⟨.deliver, [], [noneWord]⟩
  | .countBusy n | .countActive n => ⟨.deliver, [], [n]⟩
  | .rebuild n => ⟨.deliver, [.snapLen (countWord n)], []⟩

theorem State.scanBusy_eq (s : State) (j : Nat) (g : ScanGoal) : s.scanBusy j g = s.goesOn (g.afterBusy j) := by
  cases g <;> rfl
theorem State.scanFree_eq (s : State) (j : Nat) (g : ScanGoal) : s.scanFree j g = s.goesOn (g.afterFree j) := by
  cases g <;> rfl
theorem State.scanEnd_eq (s : State) (g : ScanGoal) : s.scanEnd g = s.goesOn g.atEnd := by cases g <;> rfl

/-- A read at `w` that neither fails nor ends the command: it leaves the state `u`, which is `s` but for what was
taken of HOST's answers and told to HOST, and the command at `g`. One case for each branch of each read. -/
inductive ReadsTo (s : State) : Work → State → InFlight → Prop
  | setupCheck (sr : Word) : s.setupDone = false → ReadsTo s (.setupCheck sr) s ⟨.setupNow sr, [], []⟩
  | setupNow (sr : Word) :
    ReadsTo s (.setupNow sr) s.nowTaken ⟨.setupInstall sr, setupWrites s.channels sr s.nowAnswer, []⟩
  | setupRuns (sr : Word) : sr ≠ 0 → ReadsTo s (.setupInstall sr) s.installTaken ⟨.deliver, [.running true], []⟩
  | setupFails (sr : Word) :
    ReadsTo s (.setupInstall sr) (s.installTaken.emit .diagSetupFailed) ⟨.deliver, [.running false], []⟩
  | playCheck (vol : Byte) (freq dur delay : Word) :
    ReadsTo s (.playCheck vol freq dur delay) s ⟨.scan 0 (.allocate vol freq dur delay), [], []⟩
  | playChNone (vol : Byte) (ch freq dur delay : Word) :
    ReadsTo s (.playChCheck vol ch freq dur delay) s ⟨.deliver, [], [noneWord]⟩
  | playChChannel (vol : Byte) (ch freq dur delay : Word) (i : Nat) :
    ReadsTo s (.playChCheck vol ch freq dur delay) s ⟨.configure i vol freq dur delay, [], []⟩
  | scanBusy (j : Nat) (g : ScanGoal) : j < s.channels → ReadsTo s (.scan j g) s (g.afterBusy j)
  | scanFlag (j : Nat) (g : ScanGoal) : j < s.channels → ReadsTo s (.scan j g) s ⟨.scanScheduled j g, [], []⟩
  | scanFree (j : Nat) (g : ScanGoal) : j < s.channels → ReadsTo s (.scan j g) s (g.afterFree j)
  | scanEnd (j : Nat) (g : ScanGoal) : ReadsTo s (.scan j g) s g.atEnd
  | scheduledBusy (j : Nat) (g : ScanGoal) : ReadsTo s (.scanScheduled j g) s (g.afterBusy j)
  | scheduledFree (j : Nat) (g : ScanGoal) : ReadsTo s (.scanScheduled j g) s (g.afterFree j)
  | configure (i : Nat) (vol : Byte) (freq dur delay : Word) :
    ReadsTo s (.configure i vol freq dur delay) s
      ⟨.configureNow i vol (incOf freq s.sampleRate) (dursOf dur s.sampleRate) delay, [], []⟩
  | armNow (i : Nat) (vol : Byte) (freq dur delay : Word) : delay.toInt ≤ 0 →
    ReadsTo s (.configure i vol freq dur delay) s
      ⟨.deliver, onChannel i (armNow (incOf freq s.sampleRate) vol (dursOf dur s.sampleRate)), [countWord i]⟩
  | armDelayed (i : Nat) (vol : Byte) (inc dur delay : Word) :
    ReadsTo s (.configureNow i vol inc dur delay) s.nowTaken
      ⟨.deliver, onChannel i (armDelayed inc vol dur (startOf s.nowAnswer delay s.params.tps)), [countWord i]⟩
  | freeChannel (i : Nat) : i < s.channels →
    ReadsTo s (.freeFrom i) s ⟨.freeFrom (i + 1), onChannel i freeFields, []⟩
  | freeEnd (i : Nat) : ReadsTo s (.freeFrom i) s ⟨.deliver, [], []⟩
  | cancelScheduled (i : Nat) : ReadsTo s (.cancelRead i) s ⟨.deliver, onChannel i cancelFields, []⟩
  | cancelNothing (i : Nat) : ReadsTo s (.cancelRead i) s ⟨.deliver, [], []⟩
  | updateNow : ReadsTo s .updateNow s.nowTaken ⟨.updateScan s.nowAnswer 0, [], []⟩
  | updateScheduled (t : Time) (i : Nat) : i < s.channels →
    ReadsTo s (.updateScan t i) s ⟨.updateStart t i, [], []⟩
  | updateSkip (t : Time) (i : Nat) : i < s.channels → ReadsTo s (.updateScan t i) s ⟨.updateScan t (i + 1), [], []⟩
  | updateEnd (t : Time) (i : Nat) : ReadsTo s (.updateScan t i) s ⟨.deliver, [], []⟩
  | updateDue (t : Time) (i : Nat) : (s.startTimeAt i).toNat ≤ t.toNat →
    ReadsTo s (.updateStart t i) s ⟨.updateScan t (i + 1), onChannel i promoteFields, []⟩
  | updateEarly (t : Time) (i : Nat) : ReadsTo s (.updateStart t i) s ⟨.updateScan t (i + 1), [], []⟩
  | isActive (i : Nat) : ReadsTo s (.isActiveRead i) s ⟨.deliver, [], [boolWord (s.activeAt i)]⟩
  | startTime : ReadsTo s .startTimeRead s ⟨.deliver, [], timeWords s.audioStartTime⟩

/-- All that a read can do: fail its check, end the command, or go on. -/
theorem State.workStep_cases (s : State) (f : InFlight) :
    (∃ code word, CheckFails s f.work code word ∧ s.workStep f = s.raiseFault code word) ∨
    (f.work = .deliver ∧ s.workStep f = s.deliver f.result) ∨
    ∃ u g, ReadsTo s f.work u g ∧ s.workStep f = u.goesOn g := by
  obtain ⟨w, ws, r⟩ := f
  cases w with
  | setupCheck sr =>
    simp only [State.workStep, State.setupCheckStep]
    split
    · next h => exact .inl ⟨_, _, .setup sr h, rfl⟩
    · next h => exact .inr (.inr ⟨_, _, .setupCheck sr (Bool.not_eq_true _ ▸ h), rfl⟩)
  | setupNow sr => exact .inr (.inr ⟨_, _, .setupNow sr, rfl⟩)
  | setupInstall sr =>
    refine .inr (.inr ?_)
    simp only [State.workStep, State.setupInstallStep]
    split
    · next h => exact ⟨_, _, .setupRuns sr (by simpa using (Bool.and_eq_true_iff.mp h).2), rfl⟩
    · exact ⟨_, _, .setupFails sr, rfl⟩
  | playCheck vol freq dur delay =>
    simp only [State.workStep, State.playCheckStep]
    split
    · next h => exact .inl ⟨_, _, .play vol freq dur delay h, rfl⟩
    · exact .inr (.inr ⟨_, _, .playCheck vol freq dur delay, rfl⟩)
  | playChCheck vol ch freq dur delay =>
    simp only [State.workStep, State.playChCheckStep]
    split
    · next h => exact .inl ⟨_, _, .playCh vol ch freq dur delay h, rfl⟩
    · split
      · exact .inr (.inr ⟨_, _, .playChNone vol ch freq dur delay, rfl⟩)
      · exact .inr (.inr ⟨_, _, .playChChannel vol ch freq dur delay _, rfl⟩)
  | scan j g =>
    refine .inr (.inr ?_)
    simp only [State.workStep, State.scanStep, State.scanBusy_eq, State.scanFree_eq, State.scanEnd_eq]
    split
    · next hj =>
      split
      · exact ⟨_, _, .scanBusy j g hj, rfl⟩
      · split
        · exact ⟨_, _, .scanFlag j g hj, rfl⟩
        · exact ⟨_, _, .scanFree j g hj, rfl⟩
    · exact ⟨_, _, .scanEnd j g, rfl⟩
  | scanScheduled j g =>
    refine .inr (.inr ?_)
    simp only [State.workStep, State.scanScheduledStep, State.scanBusy_eq, State.scanFree_eq]
    split
    · exact ⟨_, _, .scheduledBusy j g, rfl⟩
    · exact ⟨_, _, .scheduledFree j g, rfl⟩
  | configure i vol freq dur delay =>
    refine .inr (.inr ?_)
    simp only [State.workStep, State.configure]
    split
    · exact ⟨_, _, .configure i vol freq dur delay, rfl⟩
    · next h => exact ⟨_, _, .armNow i vol freq dur delay (Int.not_lt.mp (mt decide_eq_true h)), rfl⟩
  | configureNow i vol inc dur delay => exact .inr (.inr ⟨_, _, .armDelayed i vol inc dur delay, rfl⟩)
  | freeFrom i =>
    refine .inr (.inr ?_)
    simp only [State.workStep, State.freeStep]
    split
    · next hi => exact ⟨_, _, .freeChannel i hi, rfl⟩
    · exact ⟨_, _, .freeEnd i, rfl⟩
  | cancelRead i =>
    refine .inr (.inr ?_)
    simp only [State.workStep, State.cancelStep]
    split
    · exact ⟨_, _, .cancelScheduled i, rfl⟩
    · exact ⟨_, _, .cancelNothing i, rfl⟩
  | updateNow => exact .inr (.inr ⟨_, _, .updateNow, rfl⟩)
  | updateScan t i =>
    refine .inr (.inr ?_)
    simp only [State.workStep, State.updateScanStep]
    split
    · next hi =>
      split
      · exact ⟨_, _, .updateScheduled t i hi, rfl⟩
      · exact ⟨_, _, .updateSkip t i hi, rfl⟩
    · exact ⟨_, _, .updateEnd t i, rfl⟩
  | updateStart t i =>
    refine .inr (.inr ?_)
    simp only [State.workStep, State.updateStartStep]
    split
    · next h => exact ⟨_, _, .updateDue t i (by simpa [isDue, BitVec.le_def] using h), rfl⟩
    · exact ⟨_, _, .updateEarly t i, rfl⟩
  | isActiveRead i => exact .inr (.inr ⟨_, _, .isActive i, rfl⟩)
  | startTimeRead => exact .inr (.inr ⟨_, _, .startTime, rfl⟩)
  | deliver => exact .inr (.inl ⟨rfl, rfl⟩)

/-- A read takes at most one answer of HOST, and tells HOST at most that SETUP failed. -/
theorem ReadsTo.state_cases {s u : State} {w : Work} {g : InFlight} (h : ReadsTo s w u g) :
    u = s ∨ u = s.nowTaken ∨ u = s.installTaken ∨ u = s.installTaken.emit .diagSetupFailed := by
  cases h with
  | setupNow | armDelayed | updateNow => exact .inr (.inl rfl)
  | setupRuns => exact .inr (.inr (.inl rfl))
  | setupFails => exact .inr (.inr (.inr rfl))
  | _ => exact .inl rfl

/-! ### Steps -/

/-- All that a step of CMD can lead to: a step of the command in flight, waiting, a rejected command word, or the
start of a command. No TICK is among them, as no words decode to it (30_encoding.md R94). -/
theorem State.cmdStep_next_cases {s t : State} (hstep : s.cmdStep = .next t) :
    (∃ f, s.inFlight = some f ∧ t = s.advance f) ∨ (s.inFlight = none ∧ t = s) ∨
    (s.inFlight = none ∧ ∃ w rest, t = (s.withPort rest).raiseFault .illegalCommand w) ∨
    (s.inFlight = none ∧ ∃ i rest f, decode s.host.port = some (i, rest) ∧ firstInFlight s.channels i = some f ∧
      t = (s.withPort rest).launch f) := by
  obtain ⟨f, hf, h⟩ | ⟨hidle, h⟩ | ⟨hidle, _, w, rest, _, h⟩ | ⟨hidle, i, rest, hfetch, h⟩ := s.cmdStep_cases
  · cases hstep.symm.trans h
    exact .inl ⟨f, hf, rfl⟩
  · cases hstep.symm.trans h
    exact .inr (.inl ⟨hidle, rfl⟩)
  · cases hstep.symm.trans h
    exact .inr (.inr (.inl ⟨hidle, w, rest, rfl⟩))
  · have hdecode := decode_eq_some_iff.mpr hfetch
    obtain ⟨rfl, _⟩ | ⟨f, hfirst, hexec⟩ := exec_cases i (s.withPort rest)
    · cases (encodeReadsBackDecode _ _ _ hdecode).1
    · cases hstep.symm.trans (h.trans hexec)
      exact .inr (.inr (.inr ⟨hidle, i, rest, f, hdecode, hfirst, rfl⟩))

/-- All that a step that takes a next state can be: a TICK, or a step of CMD, before which HOST may have answered that
no TICK comes first. -/
theorem step_next_cases {s t : State} (hstep : Machine.step s = .next t) :
    (s.running = true ∧ s.tickAnswer = true ∧ t = s.tickTaken.ticked) ∨ s.tickTaken.cmdStep = .next t ∨
      s.cmdStep = .next t := by
  obtain ⟨_, _, h⟩ | ⟨_, hrun, hans, h⟩ | ⟨_, _, _, h⟩ | ⟨_, _, h⟩ := step_cases s
  · cases hstep.symm.trans h
  · cases hstep.symm.trans h
    exact .inl ⟨hrun, hans, rfl⟩
  · exact .inr (.inl (h.symm.trans hstep))
  · exact .inr (.inr (h.symm.trans hstep))

/-! ### What every step of CMD keeps -/

/-- `P` is kept by all that CMD does: taking an answer of HOST other than `now()` or words from the port, rejecting a
command word, starting a command, one read of the command in flight, and some of the writes pending. -/
structure KeptByCmd (P : State → Prop) : Prop where
  host : ∀ (s : State) (h : HostInputs), h.clock = s.host.clock → h.clockReads = s.host.clockReads → P s →
    P { s with host := h }
  reject : ∀ (s : State) (code : FaultCode) (word : Word), P s → s.inFlight = none → P (s.raiseFault code word)
  start : ∀ (s : State) (i : Instr) (f : InFlight), P s → s.inFlight = none → firstInFlight s.channels i = some f →
    P (s.goesOn f)
  read : ∀ (s : State) (f : InFlight), P s → s.inFlight = some f → f.writes = [] → P (s.workStep f)
  write : ∀ (s : State) (f : InFlight) (us vs : List Write), P s → s.inFlight = some f → f.writes.Perm (us ++ vs) →
    P ((s.putAll us).goesOn { f with writes := vs })

section
variable {P : State → Prop} (hP : KeptByCmd P)
include hP

/-- One step of the command in flight. -/
theorem KeptByCmd.advance {s : State} {f : InFlight} (hs : P s) (hf : s.inFlight = some f) : P (s.advance f) := by
  by_cases hw : f.writes = []
  · rw [s.advance_of_no_writes f hw]
    exact hP.read s f hs hf hw
  · obtain ⟨w, vs, hperm, he⟩ := s.advance_of_writes f hw
    rw [he]
    exact hP.write s.orderTaken f [w] vs (hP.host s _ rfl rfl hs) hf hperm

/-- A whole command under `per_command`. -/
theorem KeptByCmd.finish {s : State} (n : Nat) (hs : P s) : P (s.finish n) :=
  State.finish_keeps hP.read
    (fun s f hs hf _ => hP.write s f f.writes [] hs hf (.of_eq (List.append_nil _).symm)) n s hs

/-- The start of a command, or under `per_command` the whole of it. -/
theorem KeptByCmd.launch {s : State} {i : Instr} {f : InFlight} (hs : P s) (hidle : s.inFlight = none)
    (hfirst : firstInFlight s.channels i = some f) : P (s.launch f) := by
  have hstart := hP.start s i f hs hidle hfirst
  obtain ⟨_, h⟩ | ⟨_, h⟩ := s.launch_cases f
  · exact h ▸ hstart
  · exact h ▸ hP.finish _ hstart

/-- R80: one step of CMD. -/
theorem KeptByCmd.cmdStep {s t : State} (hs : P s) (hstep : s.cmdStep = .next t) : P t := by
  obtain ⟨f, hf, rfl⟩ | ⟨_, rfl⟩ | ⟨hidle, w, rest, rfl⟩ | ⟨hidle, i, rest, f, _, hfirst, rfl⟩ :=
    State.cmdStep_next_cases hstep
  · exact hP.advance hs hf
  · exact hs
  · exact hP.reject _ _ _ (hP.host s _ rfl rfl hs) hidle
  · exact hP.launch (hP.host s _ rfl rfl hs) hidle hfirst

/-- One step of the machine, where a TICK that comes first keeps `P` too. -/
theorem KeptByCmd.step {s t : State}
    (htick : s.running = true → s.tickAnswer = true → P s.tickTaken → P s.tickTaken.ticked) (hs : P s)
    (hstep : Machine.step s = .next t) : P t := by
  have hs' : P s.tickTaken := hP.host s _ rfl rfl hs
  obtain ⟨hrun, hans, rfl⟩ | h | h := step_next_cases hstep
  · exact htick hrun hans hs'
  · exact hP.cmdStep hs' h
  · exact hP.cmdStep hs h

end

end Sys2Proof.Machine

/-! PROOFS. The statements about one step: which agent moves (spec/60_exceptions.md R220 to R232), what a fault leaves
(R228), the waiting for command words (log 4), and what no step changes (spec/10_state.md R21, R34; spec/41_mixer.md
R167). -/

namespace Sys2Proof.Machine

/-! ### Which agent moves (60_exceptions.md R228 to R232) -/

/-- 60_exceptions.md R230, R231: the step is a TICK where HOST delivers one while RUNNING = 1. -/
theorem step_eq_ticked {s : State} (hfault : s.fault = none) (hrun : s.running = true) (htick : s.tickAnswer = true) :
    step s = .next s.tickTaken.ticked := by
  simpa [hfault, hrun, htick] using step_cases s

/-- Settles O7: the step is the TICK, which leaves all but the pool, LEVEL and the events. -/
theorem deliveredTickRunsNext : Obligations.DeliveredTickRunsNext := fun _ hfault hrun htick =>
  ⟨step_eq_ticked hfault hrun htick, _, step_eq_ticked hfault hrun htick, rfl, rfl, rfl⟩

/-- Settles O11: of the four things a step can do, three need FAULT to be empty. -/
theorem recordedFaultStopsBlock : Obligations.RecordedFaultStopsBlock := by
  intro s r hr
  simpa [hr] using step_cases s

/-- R80: CMD always takes a next state. -/
theorem State.cmdStep_next (s : State) : ∃ t, s.cmdStep = .next t := by
  obtain ⟨_, _, h⟩ | ⟨_, h⟩ | ⟨_, _, _, _, _, h⟩ | ⟨_, i, rest, _, h⟩ := s.cmdStep_cases
  · exact ⟨_, h⟩
  · exact ⟨_, h⟩
  · exact ⟨_, h⟩
  · exact h ▸ exec_next i (s.withPort rest)

/-- Settles O12: with FAULT empty the step is a TICK or a step of CMD, and each takes a next state. -/
theorem stepStopsOnlyOnRecordedFault : Obligations.StepStopsOnlyOnRecordedFault := by
  intro s hfault
  obtain ⟨_, hr, _⟩ | ⟨_, _, _, h⟩ | ⟨_, _, _, h⟩ | ⟨_, _, h⟩ := step_cases s
  · cases hfault.symm.trans hr
  · exact ⟨_, h⟩
  · exact h ▸ s.tickTaken.cmdStep_next
  · exact h ▸ s.cmdStep_next

/-! ### What CMD finds on the port (30_encoding.md R80, R81) -/

/-- R80: with no command in flight CMD runs the whole command that it finds on the port. -/
theorem State.cmdStep_of_command {s : State} {i : Instr} {rest : List Word} (hidle : s.inFlight = none)
    (hfetch : fetchCommand s.host.port = .command i rest) : s.cmdStep = exec i (s.withPort rest) := by
  simp only [State.cmdStep, State.startCommand, hidle, hfetch]

/-- Settles O6: the decoder reads the instruction back from its encoding, and CMD runs what it reads. -/
theorem stepRunsDecodedCommand : Obligations.StepRunsDecodedCommand := by
  intro i rest s hwf hfault hidle hport
  have hfetch : fetchCommand s.host.port = .command i rest :=
    hport ▸ decode_eq_some_iff.mp (decodeReadsBackEncode i rest hwf)
  refine ⟨fun hrun => ?_, fun hrun htick => ?_⟩
  · rw [step_eq_cmdStep_of_not_running hfault hrun, State.cmdStep_of_command hidle hfetch]
  · rw [step_eq_cmdStep_of_no_tick hfault hrun htick, State.cmdStep_of_command (s := s.tickTaken) hidle hfetch]

/-- Log 4: the port holds no word, or a legal command word some of whose operand words are missing. -/
def awaitsWords (port : List Word) : Prop :=
  port = [] ∨ ∃ cw ws, port = cw :: ws ∧ legalCommandWord cw = true ∧ ws.length < operandWords (opcField cw)

/-- Log 4: with no command in flight CMD waits where words are missing. -/
theorem State.cmdStep_of_awaitsWords {s : State} (hidle : s.inFlight = none) (hport : awaitsWords s.host.port) :
    s.cmdStep = .next s := by
  obtain hnil | ⟨cw, ws, hcons, hlegal, hlen⟩ := hport
  · simp only [State.cmdStep, State.startCommand, hidle, hnil, fetchCommand]
  · obtain ⟨o, vol, rfl, hvol⟩ := exists_commandWord_of_legal hlegal
    rw [operandWords_opcField_commandWord] at hlen
    simp only [State.cmdStep, State.startCommand, hidle, hcons, fetchCommand_of_operands_missing hvol hlen]

/-- Settles O13: a step that is no TICK is CMD's, and CMD waits. -/
theorem emptyPortLeavesBlockWaiting : Obligations.EmptyPortLeavesBlockWaiting := by
  intro s hfault hidle hport
  refine ⟨fun hrun => ?_, fun hrun htick => ?_⟩
  · rw [step_eq_cmdStep_of_not_running hfault hrun, State.cmdStep_of_awaitsWords hidle hport]
  · rw [step_eq_cmdStep_of_no_tick hfault hrun htick, State.cmdStep_of_awaitsWords (s := s.tickTaken) hidle hport]
    rfl

/-- Settles O51: the parameters are the fields that `State.reset` sets, and the first step waits on the empty port. -/
theorem resetWaitsWithDefaultParameters : Obligations.ResetWaitsWithDefaultParameters :=
  ⟨List.length_replicate, rfl, rfl, rfl,
    (emptyPortLeavesBlockWaiting State.reset rfl rfl (.inl rfl)).1 rfl⟩

/-! ### What a fault leaves (60_exceptions.md R228) -/

/-- R228: under either COMMAND_ATOMICITY a command whose first read is a check that fails is in flight, or has
recorded its fault and done nothing else. -/
theorem State.launch_of_checkFails {s : State} {w : Work} {code : FaultCode} {word : Word}
    (h : CheckFails s w code word) :
    s.launch ⟨w, [], []⟩ = s.goesOn ⟨w, [], []⟩ ∨ s.launch ⟨w, [], []⟩ = s.raiseFault code word := by
  obtain ⟨_, hl⟩ | ⟨_, hl⟩ := s.launch_cases ⟨w, [], []⟩
  · exact .inl hl
  · right
    rw [hl, finishFuel, State.finish_read _ _ _ rfl rfl, h.workStep, State.finish_of_idle _ _ rfl]

/-- R223 to R225, R228: where a step of CMD records a fault, it changes nothing but FAULT, the command in flight and
the port. -/
theorem State.cmdStep_of_records {s t : State} {r : FaultRecord} (hfault : s.fault = none) (hstep : s.cmdStep = .next t)
    (hr : t.fault = some r) : ∃ ws, t = (s.withPort ws).raiseFault r.code r.word := by
  obtain ⟨f, _, rfl⟩ | ⟨_, rfl⟩ | ⟨_, w, rest, rfl⟩ | ⟨_, i, rest, f, _, hfirst, rfl⟩ := State.cmdStep_next_cases hstep
  · obtain hkept | ⟨code, word, _, _, he⟩ := s.advance_fault_cases f
    · cases hfault.symm.trans (hkept.symm.trans hr)
    · rw [he] at hr ⊢
      cases hr
      exact ⟨s.host.port, rfl⟩
  · cases hfault.symm.trans hr
  · cases hr
    exact ⟨rest, rfl⟩
  · have hfault' : (s.withPort rest).fault = none := hfault
    obtain hnone | hown := exec_fault_cases hfault' (exec_of_firstInFlight (s := s.withPort rest) hfirst)
    · cases hnone.symm.trans hr
    · obtain ⟨w, hfirst', hcheck⟩ := firstInFlight_of_faultOf (hown.symm.trans hr)
      cases hfirst.symm.trans hfirst'
      obtain hl | hl := State.launch_of_checkFails hcheck
      · rw [hl] at hr
        cases hfault.symm.trans hr
      · exact ⟨rest, hl⟩

/-- Settles O10: a TICK records no fault, and where CMD records one it changes nothing but the port besides. -/
theorem raisingFaultWritesNothingElse : Obligations.RaisingFaultWritesNothingElse := by
  intro s t r hfault hstep hr
  obtain ⟨_, _, rfl⟩ | h | h := step_next_cases hstep
  · cases hfault.symm.trans hr
  · obtain ⟨ws, rfl⟩ := State.cmdStep_of_records (s := s.tickTaken) hfault h hr
    rfl
  · obtain ⟨ws, rfl⟩ := State.cmdStep_of_records hfault h hr
    rfl

/-! ### What no step of CMD changes -/

/-- 10_state.md R21, 00_scope.md R8: CMD changes neither the length of the pool nor the parameters. -/
theorem keptByCmd_poolSize_params (n : Nat) (p : Params) :
    KeptByCmd fun s => s.pool.length = n ∧ s.params = p where
  host _ _ _ _ h := h
  reject _ _ _ h _ := h
  start _ _ _ h _ _ := h
  read s f h _ _ := by simpa using h
  write s f us vs h _ _ := by simpa using h

/-- Settles O49: no write and no TICK changes the length of the pool, and nothing writes the parameters. -/
theorem poolSizeAndParametersConstant : Obligations.PoolSizeAndParametersConstant := fun s _ hstep =>
  (keptByCmd_poolSize_params s.pool.length s.params).step (fun _ _ _ => by simp) ⟨rfl, rfl⟩ hstep

/-- 41_mixer.md R167: CMD changes neither LEVEL nor the size of the pool. -/
theorem keptByCmd_levelInv : KeptByCmd State.levelInv where
  host _ _ _ _ h := h
  reject _ _ _ h _ := h
  start _ _ _ h _ _ := h
  read s f h _ _ := by simpa [State.levelInv, State.legalSize, State.channels] using h
  write s f us vs h _ _ := by simpa [State.levelInv, State.legalSize, State.channels] using h

/-- Settles O47: only a TICK writes LEVEL, and in a pool of legal size it writes at most 63. -/
theorem levelInvariantKept : Obligations.LevelInvariantKept := fun s _ hinv hstep =>
  keptByCmd_levelInv.step
    (fun _ _ ⟨hsize, _⟩ => ⟨by simpa [State.legalSize, State.channels] using hsize, mixOf_level_le hsize.2⟩) hinv hstep

/-- 10_state.md R34: the OutputLevel events delivered, in their order. -/
def State.outputLevels (s : State) : List Event := s.events.filter Event.isOutputLevel

/-- R111, 10_state.md R34: no read delivers an OutputLevel. -/
@[simp] theorem State.workStep_outputLevels (s : State) (f : InFlight) :
    (s.workStep f).outputLevels = s.outputLevels := by
  obtain h | h := s.workStep_events f
  · rw [State.outputLevels, h, State.outputLevels]
  · rw [State.outputLevels, h, List.filter_append]
    exact List.append_nil _

/-- 10_state.md R34: CMD changes neither LEVEL nor the OutputLevel events. -/
theorem keptByCmd_level (l : Byte) (es : List Event) : KeptByCmd fun s => s.level = l ∧ s.outputLevels = es where
  host _ _ _ _ h := h
  reject _ _ _ h _ := h
  start _ _ _ h _ _ := h
  read s f h _ _ := by simpa using h
  write s f us vs h _ _ := by simpa [State.outputLevels] using h

/-- Settles O8: where no TICK comes first the step is CMD's. -/
theorem noTickWhileNotRunning : Obligations.NoTickWhileNotRunning := by
  intro s t hno hstep
  refine (keptByCmd_level s.level s.outputLevels).step (fun hrun htick _ => ?_) ⟨rfl, rfl⟩ hstep
  simp [hrun, htick] at hno

/-! ### The clock (60_exceptions.md R241) -/

/-- 10_state.md R36: a read leaves HOST's answers to come as they were, or takes the first of them. -/
theorem State.workStep_nowAt (s : State) (f : InFlight) :
    (∀ k, (s.workStep f).host.nowAt k = s.host.nowAt k) ∨ ∀ k, (s.workStep f).host.nowAt k = s.host.nowAt (k + 1) := by
  obtain ⟨_, _, _, h⟩ | ⟨_, h⟩ | ⟨u, g, hread, h⟩ := s.workStep_cases f <;> rw [h]
  · exact .inl fun _ => rfl
  · exact .inl fun _ => rfl
  · obtain rfl | rfl | rfl | rfl := hread.state_cases
    · exact .inl fun _ => rfl
    · exact .inr fun k => HostInputs.nowAt_taken s k
    · exact .inl fun _ => rfl
    · exact .inl fun _ => rfl

/-- 60_exceptions.md R241: HOST's answers to come never go back, and none of them is before `now`. -/
def State.clockFrom (now : Time) (s : State) : Prop := now ≤ s.host.nowAt 0 ∧ s.host.clockOrdered

/-- 60_exceptions.md R241: such answers stay such where they are the same. -/
theorem State.clockFrom_congr {now : Time} {s t : State} (h : s.clockFrom now)
    (hsame : ∀ k, t.host.nowAt k = s.host.nowAt k) : t.clockFrom now := by
  unfold State.clockFrom HostInputs.clockOrdered at h ⊢
  simpa only [hsame] using h

/-- 60_exceptions.md R241: such answers stay such where the first of them is taken. -/
theorem State.clockFrom_of_taken {now : Time} {s t : State} (h : s.clockFrom now)
    (htaken : ∀ k, t.host.nowAt k = s.host.nowAt (k + 1)) : t.clockFrom now := by
  obtain ⟨hnow, hord⟩ := h
  refine ⟨?_, fun j k hjk => ?_⟩
  · rw [htaken]
    exact BitVec.le_trans hnow (hord 0 1 (Nat.zero_le 1))
  · rw [htaken, htaken]
    exact hord _ _ (Nat.succ_le_succ hjk)

/-- 60_exceptions.md R241: CMD takes HOST's answers to `now()` in their order. -/
theorem keptByCmd_clockFrom (now : Time) : KeptByCmd (State.clockFrom now) where
  host _ _ hc hr h := State.clockFrom_congr h (HostInputs.nowAt_congr hc hr)
  reject _ _ _ h _ := h
  start _ _ _ h _ _ := h
  read s f h _ _ := (s.workStep_nowAt f).elim (State.clockFrom_congr h) (State.clockFrom_of_taken h)
  write s f us vs h _ _ := State.clockFrom_congr h fun k => by simp

/-- Settles O52: a step takes HOST's answers in their order, and a TICK takes none. -/
theorem stepsKeepClockOrdered : Obligations.StepsKeepClockOrdered := by
  intro s t hord hstep
  have hstart : s.clockFrom s.nowAnswer := ⟨(HostInputs.nowAt_zero s).symm ▸ BitVec.le_refl _, hord⟩
  obtain ⟨hnow, hord'⟩ := (keptByCmd_clockFrom s.nowAnswer).step (fun _ _ h => h) hstart hstep
  exact ⟨HostInputs.nowAt_zero t ▸ hnow, hord'⟩

end Sys2Proof.Machine

/-! PROOFS. The invariants of the flags (spec/10_state.md R29; spec/90_conflicts.md C6) and of SETUP (spec/10_state.md
R31, R32): what is pending, and what it leaves once it is done. -/

namespace Sys2Proof.Machine

/-! ### Pending writes and what they leave -/

/-- What HOST will answer has no part in what is written. -/
theorem State.putAll_withHost (s : State) (h : HostInputs) (ws : List Write) :
    ({ s with host := h } : State).putAll ws = { s.putAll ws with host := h } := by
  induction ws generalizing s with
  | nil => rfl
  | cons w ws ih =>
    have hput : ({ s with host := h } : State).put w = { s.put w with host := h } := by cases w <;> rfl
    rw [State.putAll_cons, hput, ih, State.putAll_cons]

theorem State.pending_of_idle {s : State} (h : s.inFlight = none) : s.pending = [] := by simp [State.pending, h]

theorem State.pending_of_inFlight {s : State} {f : InFlight} (h : s.inFlight = some f) : s.pending = f.writes := by
  simp [State.pending, h]

/-- Without a pending write the state is what its pending writes leave. -/
theorem State.settled_of_no_pending {s : State} (h : s.pending = []) : s.settled = s := by
  rw [State.settled, h, State.putAll_nil]

theorem State.settled_of_inFlight {s : State} {f : InFlight} (h : s.inFlight = some f) :
    s.settled = s.putAll f.writes := by
  rw [State.settled, State.pending_of_inFlight h]

theorem State.settled_withHost (s : State) (h : HostInputs) :
    ({ s with host := h } : State).settled = { s.settled with host := h } := s.putAll_withHost h s.pending

theorem State.settled_goesOn (s : State) (f : InFlight) : (s.goesOn f).settled = (s.putAll f.writes).goesOn f :=
  s.goesOn_putAll f f.writes

/-- The write is to SNAP or to SNAP_LEN. -/
def Write.ofSnap : Write → Bool
  | .snapEntry _ _ | .snapLen _ => true
  | .channel _ _ | .sampleRate _ | .running _ | .setupDone _ | .audioStartTime _ => false

/-- `s` without SNAP and SNAP_LEN, the only pieces of state on which two writes to different places may meet. -/
def State.sansSnap (s : State) : State := { s with snap := [], snapLen := 0 }

@[simp] theorem State.sansSnap_pool (s : State) : s.sansSnap.pool = s.pool := rfl
@[simp] theorem State.sansSnap_setupDone (s : State) : s.sansSnap.setupDone = s.setupDone := rfl
@[simp] theorem State.sansSnap_sampleRate (s : State) : s.sansSnap.sampleRate = s.sampleRate := rfl

/-- What a list of writes leaves outside SNAP and SNAP_LEN is what the other writes among them leave. -/
theorem State.putAll_sansSnap (s : State) (ws : List Write) :
    (s.putAll ws).sansSnap = s.sansSnap.putAll (ws.filter fun w => !w.ofSnap) := by
  induction ws generalizing s with
  | nil => rfl
  | cons w ws ih =>
    rw [State.putAll_cons, ih]
    cases w <;> rfl

/-- R66: outside SNAP and SNAP_LEN, a write set that names no piece of state twice leaves the same in any order. -/
theorem State.putAll_sansSnap_of_perm (s : State) {vs ws : List Write} (hp : vs.Perm ws)
    (hd : (vs.map Write.place).Nodup) : (s.putAll vs).sansSnap = (s.putAll ws).sansSnap := by
  rw [State.putAll_sansSnap, State.putAll_sansSnap]
  refine State.putAll_perm _ (hp.filter _) (hd.sublist (List.filter_sublist.map _)) fun w hw hglobal => ?_
  have hsnap := (List.mem_filter.mp hw).2
  cases w <;> simp_all [Write.place, Write.ofSnap]

/-- What writes that all keep a part of the state keep, a list of them keeps. -/
theorem State.putAll_keeps_of_mem {α : Type} (p : State → α) {ws : List Write}
    (h : ∀ w ∈ ws, ∀ s, p (State.put s w) = p s) (s : State) : p (s.putAll ws) = p s := by
  induction ws generalizing s with
  | nil => rfl
  | cons w ws ih =>
    rw [State.putAll_cons, ih fun v hv => h v (List.mem_cons_of_mem w hv), h w List.mem_cons_self]

/-- `s` after some of the writes `us` that the command `f` in flight had pending, with the others still pending. -/
def State.written (s : State) (f : InFlight) (us vs : List Write) : State :=
  (s.putAll us).goesOn { f with writes := vs }

section
variable {s : State} {f : InFlight} {us vs : List Write}

/-- R66: after some of its writes a write set still names no piece of state twice. -/
theorem State.distinctWrites_written (hs : s.distinctWrites) (hf : s.inFlight = some f)
    (hp : f.writes.Perm (us ++ vs)) :
    (s.written f us vs).distinctWrites := by
  rw [State.distinctWrites, State.pending_of_inFlight hf] at hs
  have hsub : vs.Sublist (us ++ vs) := List.sublist_append_right us vs
  exact ((hp.map Write.place).nodup_iff.mp hs).sublist (hsub.map _)

/-- R66: after some of its writes a write set still leaves, outside SNAP and SNAP_LEN, what it leaves as a whole. -/
theorem State.settled_written (hs : s.distinctWrites) (hf : s.inFlight = some f) (hp : f.writes.Perm (us ++ vs)) :
    (s.written f us vs).settled.sansSnap = s.settled.sansSnap.goesOn { f with writes := vs } := by
  rw [State.distinctWrites, State.pending_of_inFlight hf] at hs
  rw [State.settled_of_inFlight hf, s.putAll_sansSnap_of_perm hp hs, State.written, State.settled_goesOn,
    State.putAll_append]
  rfl

end

/-! ### The write sets that reads and the start of a command set up -/

/-- R66: every write set of the block names no piece of state twice. -/
theorem nodup_places_of_orderFree {ws : List Write} (h : orderFree ws) : (ws.map Write.place).Nodup := by
  obtain ⟨hd, _⟩ | hlen := h
  · exact hd
  · match ws, hlen with
    | [], _ => exact List.nodup_nil
    | [w], _ => exact List.nodup_singleton _

/-- R120: the one command that starts with writes is STOP. -/
theorem firstInFlight_writes {c : Nat} {i : Instr} {f : InFlight} (h : firstInFlight c i = some f) :
    f.writes = [] ∨ ∃ j, f.writes = onChannel j freeFields := by
  cases i with
  | tick => cases h
  | stop ch =>
    cases h
    split
    · exact .inr ⟨_, rfl⟩
    · exact .inl rfl
  | cancel | isActive =>
    cases h
    split <;> exact .inl rfl
  | _ =>
    cases h
    exact .inl rfl

/-! ### The flags (10_state.md R29, 90_conflicts.md C6) -/

/-- `c` has no flag set that `d` has not. -/
def Channel.flagsWithin (c d : Channel) : Prop :=
  (c.active = true → d.active = true) ∧ (c.scheduled = true → d.scheduled = true)

/-- R29: a channel with no more flags than one that has not both has not both. -/
theorem Channel.exclusive_of_flagsWithin {c d : Channel} (h : c.flagsWithin d) (hd : d.exclusive) : c.exclusive :=
  fun ⟨ha, hs⟩ => hd ⟨h.1 ha, h.2 hs⟩

/-- R163: a TICK sets no flag. -/
theorem Channel.ticked_flagsWithin (c : Channel) : c.ticked.flagsWithin c := by
  unfold Channel.ticked Channel.flagsWithin
  split
  · split <;> simp
  · exact ⟨id, id⟩

theorem FieldWrite.apply_flagsWithin {c d : Channel} (h : c.flagsWithin d) (w : FieldWrite) :
    (w.apply c).flagsWithin (w.apply d) := by
  cases w with
  | active => exact ⟨id, h.2⟩
  | scheduled => exact ⟨h.1, id⟩
  | _ => exact h

/-- Channel by channel, `p` has no flag set that `q` has not. -/
def poolFlagsWithin (p q : List Channel) : Prop :=
  ∀ (i : Nat) (c : Channel), p[i]? = some c → ∃ d, q[i]? = some d ∧ c.flagsWithin d

/-- The same write on each of two such pools. -/
theorem State.put_flagsWithin {s t : State} (h : poolFlagsWithin s.pool t.pool) (w : Write) :
    poolFlagsWithin (s.put w).pool (t.put w).pool := by
  cases w with
  | channel j w =>
    intro i c hc
    rw [State.put_channel_pool, List.getElem?_modify] at hc
    obtain ⟨c', hc', rfl⟩ := Option.map_eq_some_iff.mp hc
    obtain ⟨d, hd, hcd⟩ := h i c' hc'
    refine ⟨if j = i then w.apply d else d, by simp [State.put, List.getElem?_modify, hd], ?_⟩
    split
    · exact w.apply_flagsWithin hcd
    · exact hcd
  | _ => exact h

theorem State.putAll_flagsWithin {s t : State} (h : poolFlagsWithin s.pool t.pool) (ws : List Write) :
    poolFlagsWithin (s.putAll ws).pool (t.putAll ws).pool := by
  induction ws generalizing s t with
  | nil => exact h
  | cons w ws ih => exact ih (State.put_flagsWithin h w)

/-- R29: the pool with no channel that has both flags. -/
def poolExclusive (p : List Channel) : Prop := ∀ c ∈ p, c.exclusive

theorem poolExclusive_of_flagsWithin {p q : List Channel} (h : poolFlagsWithin p q) (hq : poolExclusive q) :
    poolExclusive p := by
  intro c hc
  obtain ⟨i, hi⟩ := List.getElem?_of_mem hc
  obtain ⟨d, hd, hcd⟩ := h i c hi
  exact Channel.exclusive_of_flagsWithin hcd (hq d (List.mem_of_getElem? hd))

/-- A change of one channel that leaves it without both flags. -/
theorem poolExclusive_modify {p : List Channel} (h : poolExclusive p) (i : Nat) {g : Channel → Channel}
    (hg : ∀ c, c.exclusive → (g c).exclusive) : poolExclusive (p.modify i g) := by
  intro c hc
  obtain ⟨j, hj⟩ := List.getElem?_of_mem hc
  rw [List.getElem?_modify] at hj
  obtain ⟨d, hd, rfl⟩ := Option.map_eq_some_iff.mp hj
  have hex := h d (List.mem_of_getElem? hd)
  split
  · exact hg d hex
  · exact hex

/-- R111 to R123: each write set on a channel leaves it without both flags where it was so. -/
theorem State.poolExclusive_onChannel {s : State} (h : poolExclusive s.pool) (i : Nat) {fs : List FieldWrite}
    (hfs : fs = freeFields ∨ fs = cancelFields ∨ fs = promoteFields ∨ (∃ inc vol dur, fs = armNow inc vol dur) ∨
      ∃ inc vol dur st, fs = armDelayed inc vol dur st) : poolExclusive (s.putAll (onChannel i fs)).pool := by
  rw [State.putAll_onChannel]
  refine poolExclusive_modify h i fun c _ => ?_
  obtain rfl | rfl | rfl | ⟨_, _, _, rfl⟩ | ⟨_, _, _, _, rfl⟩ := hfs <;> simp [Channel.exclusive]

/-- C6: with no write pending the invariant speaks of the pool itself. -/
theorem State.flagsInv_iff_of_no_pending {s : State} (h : s.pending = []) : s.flagsInv ↔ poolExclusive s.pool := by
  rw [State.flagsInv, State.settled_of_no_pending h, State.distinctWrites, h]
  exact and_iff_right List.nodup_nil

/-- C6: all that CMD does keeps the invariant. -/
theorem keptByCmd_flagsInv : KeptByCmd State.flagsInv where
  host s h _ _ hs := by
    obtain ⟨hd, hx⟩ := hs
    exact ⟨hd, s.settled_withHost h ▸ hx⟩
  reject s code word hs hidle :=
    (State.flagsInv_iff_of_no_pending rfl).mpr ((State.flagsInv_iff_of_no_pending (State.pending_of_idle hidle)).mp hs)
  start s i f hs hidle hfirst := by
    have hx := (State.flagsInv_iff_of_no_pending (State.pending_of_idle hidle)).mp hs
    obtain hnil | ⟨j, hw⟩ := firstInFlight_writes hfirst
    · exact (State.flagsInv_iff_of_no_pending (s := s.goesOn f) hnil).mpr hx
    · have hfree : orderFree f.writes := hw ▸ orderFree_onChannel j freeFields (by decide)
      refine ⟨nodup_places_of_orderFree hfree, ?_⟩
      rw [State.settled_goesOn, hw]
      exact State.poolExclusive_onChannel hx j (.inl rfl)
  read s f hs hf hw := by
    have hx : poolExclusive s.pool :=
      (State.flagsInv_iff_of_no_pending ((State.pending_of_inFlight hf).trans hw)).mp hs
    rw [← s.workStep_pool f] at hx
    refine ⟨nodup_places_of_orderFree (s.workStep_orderFree f), ?_⟩
    rw [State.settled]
    obtain h | ⟨i, fs, h, hfs⟩ | ⟨n, v, h⟩ | ⟨v, h⟩ | ⟨sr, _, h⟩ | ⟨sr, _, h⟩ := s.workStep_pending f <;> rw [h]
    · exact hx
    · exact State.poolExclusive_onChannel hx i hfs
    · exact hx
    · exact hx
    · have hlen : s.channels = (s.workStep f).channels := congrArg List.length (s.workStep_pool f).symm
      rw [hlen, State.putAll_setupWrites]
      intro c hc
      rw [List.eq_of_mem_replicate hc]
      simp [Channel.exclusive, Channel.reset]
    · exact hx
  write s f us vs hs hf hp := by
    obtain ⟨hd, hx⟩ := hs
    have hpool : (s.written f us vs).settled.pool = s.settled.pool := by
      simpa using congrArg State.pool (State.settled_written hd hf hp)
    exact ⟨State.distinctWrites_written hd hf hp, hpool ▸ hx⟩

/-- C6: a TICK keeps the invariant: it sets no flag, and the pending writes then leave no flag that they would not have
left before. -/
theorem State.flagsInv_ticked {s : State} (hs : s.flagsInv) : s.ticked.flagsInv := by
  obtain ⟨hd, hx⟩ := hs
  refine ⟨hd, poolExclusive_of_flagsWithin (State.putAll_flagsWithin ?_ s.pending) hx⟩
  intro i c hc
  rw [State.ticked_pool, List.getElem?_map] at hc
  obtain ⟨d, hd, rfl⟩ := Option.map_eq_some_iff.mp hc
  exact ⟨d, hd, d.ticked_flagsWithin⟩

/-- Settles O45: every read sets up a write set that leaves no channel with both flags, its writes keep what it
leaves, and a TICK between them sets no flag. -/
theorem flagsInvariantKept : Obligations.FlagsInvariantKept := fun _ _ hinv hstep =>
  keptByCmd_flagsInv.step (fun _ _ => State.flagsInv_ticked) hinv hstep

/-! ### SETUP and RUNNING (10_state.md R31, R32, R37) -/

/-- R111: SETUP in flight past its check and before its last write set. -/
def Work.initialises : Work → Bool
  | .setupNow _ | .setupInstall _ => true
  | _ => false

/-- A write set that RUNNING may stand in only as SETUP's last write. -/
def State.writesRunningLast (s : State) (ws : List Write) : Prop :=
  (∀ w ∈ ws, w.ofSetup = false) ∨
    ∃ b, ws = [.running b] ∧ s.running = false ∧ (b = true → s.setupDone = true ∧ s.sampleRate ≠ 0)

/-- Where a command stands that is not SETUP past its check and before its last write set. -/
theorem State.setupStage_iff {s : State} {f : InFlight} (h : f.work.initialises = false) :
    s.setupStage f ↔ s.writesRunningLast f.writes := by
  obtain ⟨w, ws, r⟩ := f
  cases w with
  | setupNow | setupInstall => cases h
  | _ => exact Iff.rfl

/-- R111: while SETUP stands past its check and before its last write set, RUNNING is 0. -/
theorem State.running_of_initialises {s : State} {f : InFlight} (h : f.work.initialises = true) (hf : s.setupStage f) :
    s.running = false := by
  obtain ⟨w, ws, r⟩ := f
  cases w with
  | setupNow | setupInstall => exact hf.1
  | _ => cases h

/-- With no command in flight the invariant speaks of the registers alone. -/
theorem State.setupInv_iff_of_idle {s : State} (h : s.inFlight = none) : s.setupInv ↔ s.runningConfigured := by
  rw [State.setupInv, State.distinctWrites, State.pending_of_idle h, h]
  simp

/-- The invariant where a command that is not SETUP past its check and before its last write set is put in flight. -/
theorem State.setupInv_goesOn {s : State} {g : InFlight} (hd : (g.writes.map Write.place).Nodup)
    (hr : s.runningConfigured) (hw : g.work.initialises = false) (hlast : s.writesRunningLast g.writes) :
    (s.goesOn g).setupInv := by
  refine ⟨hd, hr, fun f hf => ?_⟩
  cases hf
  exact (State.setupStage_iff hw).mpr hlast

/-- R111: the reads by which SETUP goes on; no other read sets up a write to SETUP's registers. -/
theorem ReadsTo.setup_cases {s u : State} {w : Work} {g : InFlight} (h : ReadsTo s w u g) :
    (∃ sr, s.setupDone = false ∧ g = ⟨.setupNow sr, [], []⟩) ∨
    (∃ sr, w = .setupNow sr ∧ g = ⟨.setupInstall sr, setupWrites s.channels sr s.nowAnswer, []⟩) ∨
    (∃ sr b, w = .setupInstall sr ∧ (b = true → sr ≠ 0) ∧ g = ⟨.deliver, [.running b], []⟩) ∨
    (g.work.initialises = false ∧ ∀ v ∈ g.writes, v.ofSetup = false) := by
  have hchannel : ∀ i fs, ∀ v ∈ onChannel i fs, v.ofSetup = false := by
    intro i fs v hv
    obtain ⟨_, _, rfl⟩ := List.mem_map.mp hv
    rfl
  cases h with
  | setupCheck sr hdone => exact .inl ⟨sr, hdone, rfl⟩
  | setupNow sr => exact .inr (.inl ⟨sr, rfl, rfl⟩)
  | setupRuns sr hsr => exact .inr (.inr (.inl ⟨sr, true, rfl, fun _ => hsr, rfl⟩))
  | setupFails sr => exact .inr (.inr (.inl ⟨sr, false, rfl, nofun, rfl⟩))
  | scanBusy j g | scanFree j g | scanEnd j g | scheduledBusy j g | scheduledFree j g =>
    refine .inr (.inr (.inr ?_))
    cases g <;> simp [ScanGoal.afterBusy, ScanGoal.afterFree, ScanGoal.atEnd, Work.initialises, Write.ofSetup]
  | armNow | armDelayed | freeChannel | cancelScheduled | updateDue =>
    exact .inr (.inr (.inr ⟨rfl, hchannel _ _⟩))
  | _ => exact .inr (.inr (.inr ⟨rfl, nofun⟩))

/-- A read leaves SETUP's registers. -/
theorem ReadsTo.registers {s u : State} {w : Work} {g : InFlight} (h : ReadsTo s w u g) :
    u.running = s.running ∧ u.setupDone = s.setupDone ∧ u.sampleRate = s.sampleRate ∧ u.pool = s.pool := by
  obtain rfl | rfl | rfl | rfl := h.state_cases <;> exact ⟨rfl, rfl, rfl, rfl⟩

/-- Writes that are not SETUP's leave its registers. -/
theorem State.putAll_of_not_ofSetup {ws : List Write} (h : ∀ w ∈ ws, w.ofSetup = false) (s : State) :
    (s.putAll ws).running = s.running ∧ (s.putAll ws).setupDone = s.setupDone ∧
      (s.putAll ws).sampleRate = s.sampleRate := by
  have hput := fun w hw s => State.put_of_not_ofSetup s w (h w hw)
  exact ⟨State.putAll_keeps_of_mem (·.running) (fun w hw s => (hput w hw s).2.1) s,
    State.putAll_keeps_of_mem (·.setupDone) (fun w hw s => (hput w hw s).2.2.1) s,
    State.putAll_keeps_of_mem (·.sampleRate) (fun w hw s => (hput w hw s).1) s⟩

/-- Only a write of RUNNING changes RUNNING. -/
theorem State.putAll_running {ws : List Write} (h : ∀ w ∈ ws, ∀ b, w ≠ .running b) (s : State) :
    (s.putAll ws).running = s.running := by
  refine State.putAll_keeps_of_mem (·.running) (fun w hw s => ?_) s
  cases w with
  | running b => exact absurd rfl (h _ hw b)
  | _ => rfl

/-- The first command of a program is none of SETUP's later positions. -/
theorem initialises_of_firstInFlight {c : Nat} {i : Instr} {f : InFlight} (h : firstInFlight c i = some f) :
    f.work.initialises = false := by
  cases i with
  | tick => cases h
  | stop | cancel | isActive =>
    cases h
    split <;> rfl
  | _ =>
    cases h
    rfl

/-- What HOST will answer has no part in where a command stands. -/
theorem State.setupStage_withHost {s : State} {f : InFlight} (h : HostInputs) (hf : s.setupStage f) :
    ({ s with host := h } : State).setupStage f := by
  obtain ⟨w, ws, r⟩ := f
  cases w with
  | setupInstall sr =>
    obtain ⟨hrun, hno, hdone, hrate⟩ := hf
    exact ⟨hrun, hno, s.settled_withHost h ▸ hdone, s.settled_withHost h ▸ hrate⟩
  | _ => exact hf

/-- R111: a read that goes on keeps the invariant: SETUP finds RUNNING 0 past its check, and RUNNING is set up to be
written only behind its other registers. -/
theorem ReadsTo.setupInv {s u : State} {f g : InFlight} (hs : s.setupInv) (hf : s.inFlight = some f)
    (hw : f.writes = []) (h : ReadsTo s f.work u g) (hd : (g.writes.map Write.place).Nodup) :
    (u.goesOn g).setupInv := by
  obtain ⟨_, hconf, hstage⟩ := hs
  have hstage := hstage f hf
  have hsettled : s.settled = s := State.settled_of_no_pending ((State.pending_of_inFlight hf).trans hw)
  obtain ⟨hrun, hdone, hrate, hpool⟩ := h.registers
  have hconf' : u.runningConfigured := by rwa [State.runningConfigured, hrun, hdone, hrate]
  obtain ⟨sr, hnot, rfl⟩ | ⟨sr, hwork, rfl⟩ | ⟨sr, b, hwork, hb, rfl⟩ | ⟨hwork, hplain⟩ := h.setup_cases
  · have hzero : s.running = false := by
      by_contra hone
      cases hnot.symm.trans (hconf (Bool.not_eq_false _ ▸ hone)).1
    refine ⟨hd, hconf', fun f' hf' => ?_⟩
    cases hf'
    exact ⟨hrun.trans hzero, rfl⟩
  · have hzero := State.running_of_initialises (by rw [hwork]; rfl) hstage
    refine ⟨hd, hconf', fun f' hf' => ?_⟩
    cases hf'
    have hlen : s.channels = u.channels := congrArg List.length hpool.symm
    refine ⟨hrun.trans hzero, ?_, ?_, ?_⟩
    · intro v hv b hvb
      subst hvb
      simp [setupWrites, onChannel] at hv
    · rw [State.settled_goesOn, hlen, State.putAll_setupWrites]
      rfl
    · rw [State.settled_goesOn, hlen, State.putAll_setupWrites]
      rfl
  · have hzero := State.running_of_initialises (by rw [hwork]; rfl) hstage
    rw [State.setupStage, hwork, hsettled] at hstage
    obtain ⟨_, _, hone, hsr⟩ := hstage
    exact State.setupInv_goesOn hd hconf' rfl
      (.inr ⟨b, rfl, hrun.trans hzero, fun hbt => ⟨hdone.trans hone, (hrate.trans hsr) ▸ hb hbt⟩⟩)
  · exact State.setupInv_goesOn hd hconf' hwork (.inl hplain)

/-- R111: some of the writes pending keep the invariant. -/
theorem State.setupInv_written {s : State} {f : InFlight} {us vs : List Write} (hs : s.setupInv)
    (hf : s.inFlight = some f) (hp : f.writes.Perm (us ++ vs)) : (s.written f us vs).setupInv := by
  obtain ⟨hd, hconf, hstage⟩ := hs
  have hstage := hstage f hf
  have hd' := State.distinctWrites_written hd hf hp
  have hmem : ∀ w ∈ us, w ∈ f.writes := fun w hw => hp.mem_iff.mpr (List.mem_append_left vs hw)
  have hmem' : ∀ w ∈ vs, w ∈ f.writes := fun w hw => hp.mem_iff.mpr (List.mem_append_right us hw)
  cases hi : f.work.initialises with
  | true =>
    have hzero := State.running_of_initialises hi hstage
    have hno : ∀ w ∈ f.writes, ∀ b, w ≠ .running b := by
      obtain ⟨w, ws, r⟩ := f
      cases w with
      | setupNow => exact fun w hw => absurd (hstage.2 ▸ hw) List.not_mem_nil
      | setupInstall => exact hstage.2.1
      | _ => cases hi
    have hzero' : (s.written f us vs).running = false :=
      (s.putAll_running fun w hw => hno w (hmem w hw)).trans hzero
    have hsettled := State.settled_written hd hf hp
    refine ⟨hd', fun hone => absurd (hzero'.symm.trans hone) Bool.false_ne_true, fun f' hf' => ?_⟩
    cases hf'
    obtain ⟨w, ws, r⟩ := f
    cases w with
    | setupNow sr =>
      obtain ⟨_, rfl : ws = []⟩ := hstage
      exact ⟨hzero', (List.append_eq_nil_iff.mp hp.nil_eq.symm).2⟩
    | setupInstall sr =>
      obtain ⟨_, _, hdone, hrate⟩ := hstage
      refine ⟨hzero', fun w hw => hno w (hmem' w hw), ?_, ?_⟩
      · simpa [hdone] using congrArg State.setupDone hsettled
      · simpa [hrate] using congrArg State.sampleRate hsettled
    | _ => cases hi
  | false =>
    obtain hplain | ⟨b, hlast, hzero, hb⟩ := (State.setupStage_iff hi).mp hstage
    · obtain ⟨hrun, hdone, hrate⟩ := s.putAll_of_not_ofSetup fun w hw => hplain w (hmem w hw)
      exact State.setupInv_goesOn hd' (by rwa [State.runningConfigured, hrun, hdone, hrate]) hi
        (.inl fun w hw => hplain w (hmem' w hw))
    · rw [hlast, List.singleton_perm, eq_comm, List.append_eq_singleton_iff] at hp
      obtain ⟨rfl, rfl⟩ | ⟨rfl, rfl⟩ := hp
      · exact State.setupInv_goesOn hd' hconf hi (.inr ⟨b, rfl, hzero, hb⟩)
      · exact State.setupInv_goesOn hd' hb hi (.inl nofun)

/-- 10_state.md R32: all that CMD does keeps the invariant. -/
theorem keptByCmd_setupInv : KeptByCmd State.setupInv where
  host s h _ _ hs := by
    obtain ⟨hd, hconf, hstage⟩ := hs
    exact ⟨hd, hconf, fun f hf => State.setupStage_withHost h (hstage f hf)⟩
  reject s code word hs hidle := (State.setupInv_iff_of_idle rfl).mpr ((State.setupInv_iff_of_idle hidle).mp hs)
  start s i f hs hidle hfirst := by
    have hconf := (State.setupInv_iff_of_idle hidle).mp hs
    have hw := initialises_of_firstInFlight hfirst
    obtain hnil | ⟨j, hfree⟩ := firstInFlight_writes hfirst
    · exact State.setupInv_goesOn (hnil ▸ List.nodup_nil) hconf hw (.inl (hnil ▸ nofun))
    · refine State.setupInv_goesOn (nodup_places_of_orderFree (hfree ▸ orderFree_onChannel j freeFields (by decide)))
        hconf hw (.inl ?_)
      rw [hfree]
      simp [onChannel, freeFields, Write.ofSetup]
  read s f hs hf hw := by
    have hd := nodup_places_of_orderFree (s.workStep_orderFree f)
    have hconf : s.runningConfigured := hs.2.1
    obtain ⟨_, _, _, h⟩ | ⟨_, h⟩ | ⟨u, g, hread, h⟩ := s.workStep_cases f <;> rw [h]
    · exact (State.setupInv_iff_of_idle rfl).mpr hconf
    · exact (State.setupInv_iff_of_idle rfl).mpr hconf
    · rw [h] at hd
      exact hread.setupInv hs hf hw hd
  write _ _ _ _ hs hf hp := State.setupInv_written hs hf hp

/-- 10_state.md R32: a TICK, which occurs only while RUNNING = 1, keeps the invariant. -/
theorem State.setupInv_ticked {s : State} (hrun : s.running = true) (hs : s.setupInv) : s.ticked.setupInv := by
  obtain ⟨hd, hconf, hstage⟩ := hs
  refine ⟨hd, hconf, fun f hf => ?_⟩
  have hf' := hstage f hf
  cases hi : f.work.initialises with
  | true => cases hrun.symm.trans (State.running_of_initialises hi hf')
  | false =>
    rw [State.setupStage_iff hi] at hf' ⊢
    exact hf'

/-- Settles O46: SETUP goes past its check with RUNNING 0, leaves it 0 until its other registers are written, and then
sets it where the rate is not 0; no other command writes these registers, nor does a TICK. -/
theorem setupInvariantKept : Obligations.SetupInvariantKept := fun _ _ hinv hstep =>
  keptByCmd_setupInv.step (fun hrun _ => State.setupInv_ticked hrun) hinv hstep

/-- 10_state.md R32: with RUNNING = 1 no write pending is to RUNNING. -/
theorem State.no_running_pending {s : State} {f : InFlight} (hs : s.setupInv) (hrun : s.running = true)
    (hf : s.inFlight = some f) : ∀ w ∈ f.writes, ∀ b, w ≠ .running b := by
  obtain ⟨_, _, hstage⟩ := hs
  have hstage := hstage f hf
  cases hi : f.work.initialises with
  | true => cases hrun.symm.trans (State.running_of_initialises hi hstage)
  | false =>
    obtain hplain | ⟨_, _, hzero, _⟩ := (State.setupStage_iff hi).mp hstage
    · rintro w hw b rfl
      cases hplain _ hw
    · cases hrun.symm.trans hzero

/-- 10_state.md R32: all that CMD does keeps RUNNING = 1 together with the invariant. -/
theorem keptByCmd_running : KeptByCmd fun s => s.setupInv ∧ s.running = true where
  host s h hc hr hs := ⟨keptByCmd_setupInv.host s h hc hr hs.1, hs.2⟩
  reject s code word hs hidle := ⟨keptByCmd_setupInv.reject s code word hs.1 hidle, hs.2⟩
  start s i f hs hidle hfirst := ⟨keptByCmd_setupInv.start s i f hs.1 hidle hfirst, hs.2⟩
  read s f hs hf hw := ⟨keptByCmd_setupInv.read s f hs.1 hf hw, by simpa using hs.2⟩
  write s f us vs hs hf hp := by
    obtain ⟨hinv, hrun⟩ := hs
    refine ⟨State.setupInv_written hinv hf hp, Eq.trans (s.putAll_running fun w hw => ?_) hrun⟩
    exact State.no_running_pending hinv hrun hf w (hp.mem_iff.mpr (List.mem_append_left vs hw))

/-- Settles O50: with RUNNING = 1 no write to RUNNING is pending, and a TICK writes none. -/
theorem runningNeverCleared : Obligations.RunningNeverCleared := fun _ _ hinv hstep hrun =>
  (keptByCmd_running.step (fun hrun _ ⟨hs, hr⟩ => ⟨State.setupInv_ticked hrun hs, hr⟩) ⟨hinv, hrun⟩ hstep).2

/-! ### Reset (70_reset_and_hazards.md R250) -/

/-- Settles O48: at reset nothing is in flight, every channel is Free, and RUNNING and LEVEL are 0; with nothing in
flight nothing is pending. -/
theorem invariantsHoldAtReset : Obligations.InvariantsHoldAtReset := by
  refine ⟨?_, ?_, ⟨⟨by decide, by decide⟩, by decide⟩, fun s hidle hinv => ?_⟩
  · refine (State.flagsInv_iff_of_no_pending rfl).mpr fun c hc => ?_
    rw [State.eq_reset_of_mem_pool_resetWith hc]
    simp [Channel.exclusive, Channel.reset]
  · exact (State.setupInv_iff_of_idle rfl).mpr nofun
  · exact (State.flagsInv_iff_of_no_pending (State.pending_of_idle hidle)).mp hinv

end Sys2Proof.Machine

/-! PROOFS. Every command ends (spec/30_encoding.md R80), and its steps one by one, with no TICK between them, end
where the whole command ends (spec/20_memory.md R66, R67; spec/90_conflicts.md C8). -/

namespace Sys2Proof.Machine

/-! ### How many steps a command has left -/

/-- A bound of the steps that a command at this position has left in a pool of `c` channels, where a write set of `n`
writes takes `cost n` of them. -/
def Work.stepsLeft (cost : Nat → Nat) (c : Nat) : Work → Nat
  | .deliver => 1
  | .setupCheck _ => cost (9 * c + 3) + cost 1 + 4
  | .setupNow _ => cost (9 * c + 3) + cost 1 + 3
  | .setupInstall _ => cost 1 + 2
  | .scan j g => (c - j) * (cost 1 + 2) + afterScan g + 1
  | .scanScheduled j g => (c - (j + 1)) * (cost 1 + 2) + cost 1 + afterScan g + 2
  | .playCheck _ _ _ _ => c * (cost 1 + 2) + max (cost 9 + 1) (cost 8) + 5
  | .playChCheck _ _ _ _ _ => max (cost 9 + 1) (cost 8) + 4
  | .configure _ _ _ _ _ => max (cost 9 + 1) (cost 8) + 3
  | .configureNow _ _ _ _ _ => cost 9 + 2
  | .freeFrom i => (c - i) * (cost 2 + 1) + 2
  | .cancelRead _ => cost 1 + 2
  | .updateNow => c * (cost 5 + 2) + 3
  | .updateScan _ i => (c - i) * (cost 5 + 2) + 2
  | .updateStart _ i => (c - (i + 1)) * (cost 5 + 2) + cost 5 + 3
  | .isActiveRead _ | .startTimeRead => 2
where
  /-- The steps left behind the last channel that a scan reads. -/
  afterScan : ScanGoal → Nat
    | .allocate _ _ _ _ => max (cost 9 + 1) (cost 8) + 3
    | .rebuild _ => cost 1 + 1
    | .findFree | .countBusy _ | .countActive _ => 1

/-- A bound of the steps that a command in flight has left: those of its pending writes and those after them. -/
def InFlight.stepsLeft (cost : Nat → Nat) (c : Nat) (f : InFlight) : Nat :=
  cost f.writes.length + f.work.stepsLeft cost c

/-- R111: SETUP has three registers and nine fields for each channel to write. -/
@[simp] theorem setupWrites_length (c : Nat) (sr : Word) (now : Time) : (setupWrites c sr now).length = 9 * c + 3 := by
  simp [setupWrites, onChannel, clearFields]
  omega

@[simp] theorem onChannel_length (i : Nat) (fs : List FieldWrite) : (onChannel i fs).length = fs.length :=
  List.length_map _

/-- The steps of one channel and of those behind it. -/
theorem sub_mul_of_lt {i c : Nat} (h : i < c) (n : Nat) : (c - i) * n = (c - (i + 1)) * n + n := by
  rw [show c - i = c - (i + 1) + 1 by omega, Nat.succ_mul]

/-- A read that goes on leaves fewer steps. -/
theorem ReadsTo.stepsLeft_lt {s u : State} {w : Work} {g : InFlight} {cost : Nat → Nat} (hcost : cost 0 = 0)
    (h : ReadsTo s w u g) : g.stepsLeft cost s.channels < w.stepsLeft cost s.channels := by
  cases h with
  | scanBusy j g hj | scanFree j g hj | scanFlag j g hj =>
    cases g <;>
      simp only [InFlight.stepsLeft, ScanGoal.afterBusy, ScanGoal.afterFree, Work.stepsLeft, Work.stepsLeft.afterScan,
        List.length_nil, List.length_cons, Nat.reduceAdd, hcost, sub_mul_of_lt hj] <;>
      omega
  | scanEnd j g | scheduledBusy j g | scheduledFree j g =>
    cases g <;>
      simp only [InFlight.stepsLeft, ScanGoal.afterBusy, ScanGoal.afterFree, ScanGoal.atEnd, Work.stepsLeft,
        Work.stepsLeft.afterScan, List.length_nil, List.length_cons, Nat.reduceAdd, hcost] <;>
      omega
  | freeChannel i hi | updateScheduled t i hi | updateSkip t i hi =>
    simp only [InFlight.stepsLeft, Work.stepsLeft, onChannel_length, freeFields, List.length_nil, List.length_cons,
      Nat.reduceAdd, hcost, sub_mul_of_lt hi]
    omega
  | _ =>
    simp only [InFlight.stepsLeft, Work.stepsLeft, Work.stepsLeft.afterScan, setupWrites_length, onChannel_length,
      Machine.armNow, Machine.armDelayed, cancelFields, promoteFields, List.length_nil, List.length_cons,
      Nat.reduceAdd, hcost, Nat.sub_zero]
    omega

/-- A read leaves fewer steps, or none. -/
theorem State.workStep_stepsLeft_lt {cost : Nat → Nat} (hcost : cost 0 = 0) {s : State} {f g : InFlight}
    (hw : f.writes = []) (hg : (s.workStep f).inFlight = some g) :
    g.stepsLeft cost s.channels < f.stepsLeft cost s.channels := by
  obtain ⟨_, _, _, h⟩ | ⟨_, h⟩ | ⟨u, g', hread, h⟩ := s.workStep_cases f <;> rw [h] at hg <;> cases hg
  rw [show f.stepsLeft cost s.channels = f.work.stepsLeft cost s.channels by
    rw [InFlight.stepsLeft, hw, List.length_nil, hcost, Nat.zero_add]]
  exact hread.stepsLeft_lt hcost

/-- A command in flight has a step left. -/
theorem InFlight.stepsLeft_pos (cost : Nat → Nat) (c : Nat) (f : InFlight) : 0 < f.stepsLeft cost c := by
  obtain ⟨w, ws, r⟩ := f
  cases w <;> simp only [InFlight.stepsLeft, Work.stepsLeft] <;> omega

/-! ### The end of a command -/

/-- The command in flight in `s`, if any, has at most `n` steps left. -/
def State.endsWithin (cost : Nat → Nat) (n : Nat) (s : State) : Prop :=
  ∀ f, s.inFlight = some f → f.stepsLeft cost s.channels ≤ n

theorem State.idle_of_endsWithin_zero {cost : Nat → Nat} {s : State} (h : s.endsWithin cost 0) : s.inFlight = none := by
  cases hf : s.inFlight with
  | none => rfl
  | some f => exact absurd (h f hf) (f.stepsLeft_pos cost s.channels).not_ge

/-- A read takes one of the steps left. -/
theorem State.endsWithin_workStep {cost : Nat → Nat} (hcost : cost 0 = 0) {n : Nat} {s : State} {f : InFlight}
    (h : s.endsWithin cost (n + 1)) (hf : s.inFlight = some f) (hw : f.writes = []) :
    (s.workStep f).endsWithin cost n := by
  intro g hg
  have hlen : (s.workStep f).channels = s.channels := congrArg List.length (s.workStep_pool f)
  have hlt := State.workStep_stepsLeft_lt hcost hw hg
  have hle := h f hf
  rw [hlen]
  omega

/-- R65: with at most `n` steps left, `n` steps end the command. -/
theorem State.cmdRun_ends (n : Nat) (s : State) (h : s.endsWithin id n) : (s.cmdRun n).inFlight = none := by
  induction n generalizing s with
  | zero => exact State.idle_of_endsWithin_zero h
  | succ n ih =>
    cases hf : s.inFlight with
    | none => rwa [State.cmdRun_of_idle _ s hf]
    | some f =>
      rw [State.cmdRun_step n s f hf]
      by_cases hw : f.writes = []
      · rw [State.advance_of_no_writes s f hw]
        exact ih _ (State.endsWithin_workStep rfl h hf hw)
      · obtain ⟨w, vs, hp, he⟩ := s.advance_of_writes f hw
        rw [he]
        refine ih _ fun g hg => ?_
        cases hg
        have hle := h f hf
        have hlen := hp.length_eq
        simp only [InFlight.stepsLeft, State.channels, State.goesOn_pool, State.put_pool_length, State.orderTaken_pool,
          hlen, List.length_cons, id] at hle ⊢
        omega

/-- The steps of a write set where it is taken whole. -/
def wholeCost : Nat → Nat
  | 0 => 0
  | _ + 1 => 1

theorem wholeCost_of_pos {n : Nat} (h : 0 < n) : wholeCost n = 1 := by
  obtain ⟨m, rfl⟩ := Nat.exists_eq_succ_of_ne_zero h.ne'
  rfl

/-- R67: with at most `n` steps left, each write set taken whole, the command is run to its end. -/
theorem State.finish_ends (n : Nat) (s : State) (h : s.endsWithin wholeCost n) : (s.finish n).inFlight = none := by
  induction n generalizing s with
  | zero => exact State.idle_of_endsWithin_zero h
  | succ n ih =>
    cases hf : s.inFlight with
    | none => rwa [State.finish_of_idle _ s hf]
    | some f =>
      by_cases hw : f.writes = []
      · rw [State.finish_read n s f hf hw]
        exact ih _ (State.endsWithin_workStep rfl h hf hw)
      · rw [State.finish_flush n s f hf hw]
        refine ih _ fun g hg => ?_
        cases hg
        have hle := h f hf
        simp only [InFlight.stepsLeft, State.channels, State.flush_pool_length, List.length_nil,
          show wholeCost 0 = 0 from rfl, wholeCost_of_pos (List.length_pos_iff.mpr hw)] at hle ⊢
        omega

/-- R80: a command starts with at most 9 C + 16 steps left. -/
theorem stepsLeft_of_firstInFlight {c : Nat} {i : Instr} {f : InFlight} (h : firstInFlight c i = some f) :
    f.stepsLeft id c ≤ 9 * c + 16 ∧ f.stepsLeft wholeCost c ≤ finishFuel c := by
  cases i with
  | tick => cases h
  | stop | cancel | isActive =>
    cases h
    split <;>
      simp only [InFlight.stepsLeft, Work.stepsLeft, onChannel_length, freeFields, List.length_nil, List.length_cons,
        finishFuel, wholeCost, id] <;>
      omega
  | _ =>
    cases h
    simp only [InFlight.stepsLeft, Work.stepsLeft, Work.stepsLeft.afterScan, List.length_nil, finishFuel, wholeCost, id,
      Nat.reduceAdd, Nat.sub_zero]
    omega

/-- R67: what a command started under `per_command` runs to has ended. -/
theorem State.finish_ends_of_firstInFlight {s : State} {i : Instr} {f : InFlight}
    (h : firstInFlight s.channels i = some f) : ((s.goesOn f).finish (finishFuel s.channels)).inFlight = none := by
  refine State.finish_ends _ _ fun g hg => ?_
  cases hg
  exact (stepsLeft_of_firstInFlight h).2

/-- R110: a command just started is in flight at its first position under `per_field`, and has ended under
`per_command`. -/
theorem State.launch_inFlight {s : State} {i : Instr} {f : InFlight} (h : firstInFlight s.channels i = some f) :
    (s.params.atomicity = .perField ∧ s.launch f = s.goesOn f) ∨
      (s.params.atomicity = .perCommand ∧ (s.launch f).inFlight = none) := by
  obtain hfield | ⟨hcommand, hl⟩ := s.launch_cases f
  · exact .inl hfield
  · exact .inr ⟨hcommand, hl ▸ State.finish_ends_of_firstInFlight h⟩

/-- Settles O31: a command has at most 9 C + 16 steps left where it starts, and each step leaves fewer. -/
theorem everyCommandEnds : Obligations.EveryCommandEnds := by
  intro i s t hidle hexec
  obtain ⟨_, h⟩ | ⟨f, hfirst, h⟩ := exec_cases i s
  · cases hexec.symm.trans h
    rwa [State.cmdRun_of_idle _ s.ticked hidle]
  · cases hexec.symm.trans h
    obtain ⟨_, hl⟩ | ⟨_, hend⟩ := State.launch_inFlight hfirst
    · rw [hl]
      refine State.cmdRun_ends _ _ fun g hg => ?_
      cases hg
      exact (stepsLeft_of_firstInFlight hfirst).1
    · rw [State.cmdRun_of_idle _ _ hend]
      exact hend

/-- R67: under `per_command` a step of CMD with no command in flight leaves none in flight. -/
theorem State.cmdStep_idle_of_perCommand {s t : State} (ha : s.params.atomicity = .perCommand)
    (hidle : s.inFlight = none) (hstep : s.cmdStep = .next t) : t.inFlight = none := by
  obtain ⟨f, hf, _⟩ | ⟨_, rfl⟩ | ⟨_, _, _, rfl⟩ | ⟨_, i, rest, f, _, hfirst, rfl⟩ := State.cmdStep_next_cases hstep
  · cases hidle.symm.trans hf
  · exact hidle
  · rfl
  · obtain ⟨hfield, _⟩ | ⟨_, hend⟩ := State.launch_inFlight (s := s.withPort rest) hfirst
    · cases ha.symm.trans hfield
    · exact hend

/-- Settles O30: under `per_command` the fuel outlasts every command, so what a step starts has ended; a TICK starts
none. -/
theorem perCommandTakesOneStep : Obligations.PerCommandTakesOneStep := by
  intro s t ha hidle hstep
  obtain ⟨_, _, rfl⟩ | h | h := step_next_cases hstep
  · exact hidle
  · exact State.cmdStep_idle_of_perCommand (s := s.tickTaken) ha hidle h
  · exact State.cmdStep_idle_of_perCommand ha hidle h

/-! ### The two granularities (90_conflicts.md C8) -/

/-- R66: a command starts with a write set that may be done in any order. -/
theorem orderFree_of_firstInFlight {c : Nat} {i : Instr} {f : InFlight} (h : firstInFlight c i = some f) :
    orderFree f.writes := by
  obtain hnil | ⟨j, hfree⟩ := firstInFlight_writes h
  · exact hnil ▸ orderFree_nil
  · exact hfree ▸ orderFree_onChannel j freeFields (by decide)

/-- R110: an instruction with a command word starts as a command. -/
theorem exists_firstInFlight {i : Instr} (h : i.wellFormed = true) (c : Nat) : ∃ f, firstInFlight c i = some f := by
  cases i with
  | tick => cases h
  | _ => exact ⟨_, rfl⟩

/-- Settles O29: both granularities start the command at one position; the whole command comes to its end from there,
and its steps one by one come to the same end. -/
theorem perFieldWithoutTickIsPerCommand : Obligations.PerFieldWithoutTickIsPerCommand := by
  intro i s hwf _
  obtain ⟨f, hfirst⟩ := exists_firstInFlight hwf s.channels
  obtain ⟨n, hidle, hvisible⟩ := State.runsTo_finish (finishFuel s.channels) ((s.withAtomicity .perField).goesOn f)
    (orderFree_of_firstInFlight hfirst) (State.finish_ends_of_firstInFlight (s := s.withAtomicity .perField) hfirst)
  have hfield : exec i (s.withAtomicity .perField) = .next ((s.withAtomicity .perField).goesOn f) :=
    exec_of_firstInFlight hfirst
  have hcommand : exec i (s.withAtomicity .perCommand) =
      .next (((s.withAtomicity .perCommand).goesOn f).finish (finishFuel s.channels)) :=
    exec_of_firstInFlight hfirst
  refine ⟨_, _, n, hfield, hcommand, hidle, hvisible.trans ?_⟩
  simp only [State.finish_visible, State.goesOn_visible, State.withAtomicity_visible]

end Sys2Proof.Machine

/-! PROOFS. The whole effect of SETUP (spec/40_scheduler.md R111), and the steps of a query under `per_field`
(spec/42_query.md R190). -/

namespace Sys2Proof.Machine

/-! ### SETUP (R111) -/

/-- R111, 10_state.md R37: from its question to HOST on, SETUP leads to RUNNING as HOST and SR say. -/
theorem State.leadsTo_setupInstall (s : State) (sr : Word) :
    (s.goesOn ⟨.setupInstall sr, [], []⟩).leadsTo 3
      { s.installTaken with
        running := s.installAnswer && sr != 0#32
        events := if (s.installAnswer && sr != 0#32) = true then s.events else s.events ++ [.diagSetupFailed]
        inFlight := none } := by
  have hread := State.leadsTo_read s (.setupInstall sr) []
  have hanswer : (s.goesOn ⟨.setupInstall sr, [], []⟩).installAnswer = s.installAnswer := rfl
  simp only [State.workStep, State.setupInstallStep, hanswer] at hread
  cases hok : s.installAnswer && sr != 0#32 with
  | true =>
    rw [if_pos hok] at hread
    have hend := hread.trans (State.leadsTo_deliver _ [.running true] [])
    rw [State.deliver_nil] at hend
    exact hend
  | false =>
    rw [if_neg (by simp [hok])] at hread
    have hend := hread.trans (State.leadsTo_deliver _ [.running false] [])
    rw [State.deliver_nil] at hend
    exact hend

/-- R111: past its check SETUP reads `now()`, writes its registers and clears every channel, and asks HOST. -/
theorem State.leadsTo_setupNow_end (s : State) (sr : Word) :
    (s.goesOn ⟨.setupNow sr, [], []⟩).leadsTo 5
      { s.nowTaken.installTaken with
        pool := List.replicate s.pool.length Channel.reset
        sampleRate := sr
        setupDone := true
        audioStartTime := s.nowAnswer
        running := s.installAnswer && sr != 0#32
        events := if (s.installAnswer && sr != 0#32) = true then s.events else s.events ++ [.diagSetupFailed]
        inFlight := none } := by
  have hread := State.leadsTo_read s (.setupNow sr) []
  have hclear := hread.trans (State.leadsTo_flush s.nowTaken (.setupInstall sr)
    (setupWrites s.nowTaken.channels sr s.nowAnswer) [])
  rw [State.putAll_setupWrites] at hclear
  exact hclear.trans (State.leadsTo_setupInstall _ sr)

/-- Settles O15: SETUP faults at its check, or reads `now()`, does its write set, asks HOST and writes RUNNING. -/
theorem setupInitialisesBlock : Obligations.SetupInitialisesBlock := by
  intro sr outPin enPin s
  refine ⟨rfl, ?_⟩
  have hcheck := s.leadsTo_setupCheck sr
  by_cases hdone : s.setupDone = true
  · rw [if_pos hdone] at hcheck ⊢
    exact startsOrEnds_of_startWork rfl hcheck (by omega)
  · rw [if_neg hdone] at hcheck ⊢
    exact startsOrEnds_of_startWork rfl (hcheck.trans (s.leadsTo_setupNow_end sr)) (by omega)

/-! ### The steps of a query (42_query.md R190) -/

/-- R190: a query that is not REBUILD_LIST goes on with such a query. -/
theorem ReadsTo.ofQuery {s u : State} {f g : InFlight} (h : ReadsTo s f.work u g) (hf : f.ofQuery) :
    u = s ∧ g.ofQuery := by
  obtain ⟨w, ws, r⟩ := f
  obtain ⟨_, hf⟩ := hf
  cases h with
  | scanBusy j goal | scanFlag j goal | scanFree j goal | scanEnd j goal | scheduledBusy j goal
  | scheduledFree j goal =>
    cases goal with
    | allocate | rebuild => cases hf
    | _ => exact ⟨rfl, rfl, trivial⟩
  | isActive | startTime => exact ⟨rfl, rfl, trivial⟩
  | _ => cases hf

/-- R190: a read of REBUILD_LIST goes on with REBUILD_LIST. -/
theorem ReadsTo.ofRebuild {s u : State} {f g : InFlight} (h : ReadsTo s f.work u g) (hf : f.ofRebuild) :
    u = s ∧ g.ofRebuild := by
  obtain ⟨w, ws, r⟩ := f
  obtain ⟨_, _, ⟨j, n, rfl⟩ | ⟨j, n, rfl⟩ | rfl⟩ := hf
  · cases h with
    | scanBusy => exact ⟨rfl, rfl, by simp [ScanGoal.afterBusy], .inl ⟨_, _, rfl⟩⟩
    | scanFlag => exact ⟨rfl, rfl, nofun, .inr (.inl ⟨_, _, rfl⟩)⟩
    | scanFree => exact ⟨rfl, rfl, nofun, .inl ⟨_, _, rfl⟩⟩
    | scanEnd => exact ⟨rfl, rfl, by simp [ScanGoal.atEnd], .inr (.inr rfl)⟩
  · cases h with
    | scheduledBusy => exact ⟨rfl, rfl, by simp [ScanGoal.afterBusy], .inl ⟨_, _, rfl⟩⟩
    | scheduledFree => exact ⟨rfl, rfl, nofun, .inl ⟨_, _, rfl⟩⟩
  · cases h

/-- R190: no query has a check to fail. -/
theorem CheckFails.not_ofQuery {s : State} {f : InFlight} {code : FaultCode} {word : Word}
    (h : CheckFails s f.work code word) : ¬ f.ofQuery ∧ ¬ f.ofRebuild := by
  obtain ⟨w, ws, r⟩ := f
  cases h <;> simp [InFlight.ofQuery, InFlight.ofRebuild]

/-- R190: a write of REBUILD_LIST changes SNAP and SNAP_LEN alone. -/
theorem State.put_snap_frame (s : State) {w : Write} (h : (∃ n v, w = .snapEntry n v) ∨ ∃ v, w = .snapLen v) :
    s.put w = { s with snap := (s.put w).snap, snapLen := (s.put w).snapLen } := by
  obtain ⟨n, v, rfl⟩ | ⟨v, rfl⟩ := h <;> rfl

/-- R80: a command in flight takes CMD's step. -/
theorem State.cmdStep_of_inFlight {s : State} {f : InFlight} (hf : s.inFlight = some f) :
    s.cmdStep = .next (s.advance f) := by
  simp only [State.cmdStep, hf]

/-- R190: a step of a query that is not REBUILD_LIST changes the command in flight and the results alone. -/
theorem State.advance_ofQuery {s : State} {f : InFlight} (hf : f.ofQuery) :
    s.advance f = { s with inFlight := (s.advance f).inFlight, results := (s.advance f).results } ∧
      ∀ g, (s.advance f).inFlight = some g → g.ofQuery := by
  rw [State.advance_of_no_writes s f hf.1]
  obtain ⟨_, _, hfail, _⟩ | ⟨_, h⟩ | ⟨u, g, hread, h⟩ := s.workStep_cases f
  · exact absurd hf hfail.not_ofQuery.1
  · rw [h]
    exact ⟨rfl, nofun⟩
  · obtain ⟨rfl, hg⟩ := hread.ofQuery hf
    rw [h]
    refine ⟨rfl, fun g' hg' => ?_⟩
    cases hg'
    exact hg

/-- R190, R192: a step of REBUILD_LIST changes the command in flight, SNAP, SNAP_LEN and WRITE_ORDER's draws alone. -/
theorem State.advance_ofRebuild {s : State} {f : InFlight} (hf : f.ofRebuild) :
    s.advance f = { s with
      snap := (s.advance f).snap, snapLen := (s.advance f).snapLen, inFlight := (s.advance f).inFlight
      host := { s.host with order := (s.advance f).host.order, orderDraws := (s.advance f).host.orderDraws } } ∧
      ∀ g, (s.advance f).inFlight = some g → g.ofRebuild := by
  by_cases hw : f.writes = []
  · rw [State.advance_of_no_writes s f hw]
    obtain ⟨_, _, hfail, _⟩ | ⟨_, h⟩ | ⟨u, g, hread, h⟩ := s.workStep_cases f
    · exact absurd hf hfail.not_ofQuery.2
    · rw [h, hf.1, State.deliver_nil]
      exact ⟨rfl, nofun⟩
    · obtain ⟨rfl, hg⟩ := hread.ofRebuild hf
      rw [h]
      refine ⟨rfl, fun g' hg' => ?_⟩
      cases hg'
      exact hg
  · obtain ⟨w, vs, hp, h⟩ := s.advance_of_writes f hw
    obtain ⟨hresult, hwrites, hwork⟩ := hf
    have hsnap := s.orderTaken.put_snap_frame (hwrites w (hp.mem_iff.mpr List.mem_cons_self))
    rw [h, hsnap]
    refine ⟨rfl, fun g hg => ?_⟩
    cases hg
    exact ⟨hresult, fun v hv => hwrites v (hp.mem_iff.mpr (List.mem_cons_of_mem w hv)), hwork⟩

/-- Settles O28: no read of a query fails, writes or asks HOST, and the write sets of REBUILD_LIST are to SNAP and
SNAP_LEN. -/
theorem queryStepsWriteNothing : Obligations.QueryStepsWriteNothing := by
  refine ⟨fun s f hf hq => ?_, fun s ha => ?_, fun s f hf hq => ?_⟩
  · exact ⟨_, State.cmdStep_of_inFlight hf, State.advance_ofQuery hq⟩
  · obtain ⟨_, hl⟩ | ⟨hc, _⟩ := s.launch_cases ⟨.scan 0 (.rebuild 0), [], []⟩
    · exact ⟨⟨.scan 0 (.rebuild 0), [], []⟩, ⟨rfl, nofun, .inl ⟨0, 0, rfl⟩⟩, congrArg Host.Outcome.next hl⟩
    · cases ha.symm.trans hc
  · exact ⟨_, State.cmdStep_of_inFlight hf, State.advance_ofRebuild hq⟩

end Sys2Proof.Machine

/-! PROOFS. The channel state machine of spec/40_scheduler.md R124: what makes a channel Active. -/

namespace Sys2Proof.Machine

/-! ### The writes that set `active` -/

/-- R124: one write makes a channel Active only by setting its `active`. -/
theorem State.activeAt_put {s : State} {w : Write} {i : Nat} (h : (s.put w).activeAt i = true) :
    s.activeAt i = true ∨ w = .channel i (.active true) := by
  cases w with
  | channel j w =>
    simp only [State.activeAt, State.put, List.getElem?_modify] at h ⊢
    cases hc : s.pool[i]? with
    | none => simp [hc] at h
    | some c =>
      by_cases hij : j = i
      · subst hij
        cases w with
        | active b => exact .inr (by simpa [hc, FieldWrite.apply] using h)
        | _ => exact .inl (by simpa [hc, FieldWrite.apply] using h)
      · exact .inl (by simpa [hc, hij] using h)
  | _ => exact .inl h

/-- R124: a list of writes makes a channel Active only by one that sets its `active`. -/
theorem State.activeAt_putAll {s : State} {ws : List Write} {i : Nat} (h : (s.putAll ws).activeAt i = true) :
    s.activeAt i = true ∨ .channel i (.active true) ∈ ws := by
  induction ws generalizing s with
  | nil => exact .inl h
  | cons w ws ih =>
    obtain hput | hmem := ih h
    · obtain hs | rfl := State.activeAt_put hput
      · exact .inl hs
      · exact .inr List.mem_cons_self
    · exact .inr (List.mem_cons_of_mem w hmem)

/-- R160: a TICK makes no channel Active. -/
theorem State.activeAt_ticked {s : State} {i : Nat} (h : s.ticked.activeAt i = true) : s.activeAt i = true := by
  simp only [State.activeAt, State.ticked_pool, List.getElem?_map] at h ⊢
  cases hc : s.pool[i]? with
  | none => simp [hc] at h
  | some c => exact c.ticked_flagsWithin.1 (by simpa [hc] using h)

/-- A read leaves every channel's flags. -/
theorem State.activeAt_workStep (s : State) (f : InFlight) (i : Nat) : (s.workStep f).activeAt i = s.activeAt i := by
  rw [State.activeAt, State.workStep_pool, State.activeAt]

/-- R112, R123: a write that sets `active` is set up by CONFIGURE's immediate arm and by UPDATE's promotion alone. -/
theorem ReadsTo.activating {s u : State} {w : Work} {g : InFlight} {i : Nat} (h : ReadsTo s w u g)
    (hm : .channel i (.active true) ∈ g.writes) :
    (∃ vol freq dur delay, w = .configure i vol freq dur delay ∧ delay.toInt ≤ 0) ∨
      ∃ now, w = .updateStart now i ∧ (s.startTimeAt i).toNat ≤ now.toNat := by
  cases h with
  | armNow j vol freq dur delay hd =>
    obtain rfl : i = j := by simpa [onChannel, Machine.armNow] using hm
    exact .inl ⟨vol, freq, dur, delay, rfl, hd⟩
  | updateDue t j hdue =>
    obtain rfl : i = j := by simpa [onChannel, promoteFields] using hm
    exact .inr ⟨t, rfl, hdue⟩
  | scanBusy j g | scanFree j g | scanEnd j g | scheduledBusy j g | scheduledFree j g =>
    cases g <;> simp [ScanGoal.afterBusy, ScanGoal.afterFree, ScanGoal.atEnd] at hm
  | setupNow => simp [setupWrites, onChannel, clearFields] at hm
  | armDelayed | freeChannel | cancelScheduled =>
    simp [onChannel, Machine.armDelayed, freeFields, cancelFields] at hm
  | _ => simp at hm

/-- R120: no command starts with a write that sets `active`. -/
theorem not_activating_of_firstInFlight {c : Nat} {cmd : Instr} {f : InFlight} (h : firstInFlight c cmd = some f)
    (i : Nat) : .channel i (.active true) ∉ f.writes := by
  obtain hnil | ⟨j, hfree⟩ := firstInFlight_writes h
  · simp [hnil]
  · simp [hfree, onChannel, freeFields]

/-! ### The positions of PLAY, PLAY_CH and UPDATE -/

/-- R112, R118, R119: a read stands at a position of PLAY and PLAY_CH only behind one. -/
theorem ReadsTo.ofArm {s u : State} {w : Work} {g : InFlight} (h : ReadsTo s w u g) (hg : g.work.ofArm) : w.ofArm := by
  cases h with
  | scanBusy j goal | scanFree j goal | scanEnd j goal | scheduledBusy j goal | scheduledFree j goal =>
    cases goal with
    | allocate => exact ⟨_, _, _, _, rfl⟩
    | _ => simp [ScanGoal.afterBusy, ScanGoal.afterFree, ScanGoal.atEnd, Work.ofArm] at hg
  | scanFlag => exact hg
  | playCheck | playChNone | playChChannel | configure | armNow | armDelayed => trivial
  | _ => cases hg

/-- R123: a read stands at a position of UPDATE only behind one. -/
theorem ReadsTo.ofUpdate {s u : State} {w : Work} {g : InFlight} (h : ReadsTo s w u g) (hg : g.work.ofUpdate) :
    w.ofUpdate := by
  cases h with
  | scanBusy j goal | scanFree j goal | scanEnd j goal | scheduledBusy j goal | scheduledFree j goal =>
    cases goal <;> cases hg
  | updateNow | updateScheduled | updateSkip | updateEnd | updateDue | updateEarly => trivial
  | _ => cases hg

/-- R118, R119: PLAY or PLAY_CH. -/
def isPlay (cmd : Instr) : Prop :=
  (∃ vol freq dur delay, cmd = .play vol freq dur delay) ∨ ∃ vol ch freq dur delay, cmd = .playCh vol ch freq dur delay

/-- R118, R119, R123: the positions of PLAY and PLAY_CH and those of UPDATE are reached from these commands alone. -/
theorem work_of_firstInFlight {c : Nat} {cmd : Instr} {f : InFlight} (h : firstInFlight c cmd = some f) :
    (f.work.ofArm → isPlay cmd) ∧ (f.work.ofUpdate → cmd = .update) := by
  cases cmd with
  | tick => cases h
  | play => exact ⟨fun _ => .inl ⟨_, _, _, _, rfl⟩, by cases h; nofun⟩
  | playCh => exact ⟨fun _ => .inr ⟨_, _, _, _, _, rfl⟩, by cases h; nofun⟩
  | update => exact ⟨by cases h; nofun, fun _ => rfl⟩
  | stop | cancel | isActive =>
    cases h
    split <;> exact ⟨nofun, nofun⟩
  | _ =>
    cases h
    simp [Work.ofArm, Work.ofUpdate]

/-! ### The three parts of the table -/

/-- R124: channel `i` is not Active, and the command in flight is none that can make it so. -/
def State.quietOn (i : Nat) (s : State) : Prop :=
  s.activeAt i = false ∧
    ∀ g, s.inFlight = some g → ¬ g.work.ofArm ∧ ¬ g.work.ofUpdate ∧ .channel i (.active true) ∉ g.writes

/-- R124: a command that is at no position of PLAY, PLAY_CH or UPDATE makes no channel Active as it goes on. -/
theorem State.quietOn_finish {i : Nat} {s : State} (h : s.quietOn i) (n : Nat) : (s.finish n).quietOn i := by
  refine State.finish_keeps (fun s f hs hf _ => ?_) (fun s f hs hf _ => ?_) n s h
  · obtain ⟨hoff, hquiet⟩ := hs
    obtain ⟨harm, hupdate, _⟩ := hquiet f hf
    refine ⟨(s.activeAt_workStep f i).trans hoff, fun g hg => ?_⟩
    obtain ⟨_, _, _, h⟩ | ⟨_, h⟩ | ⟨u, g', hread, h⟩ := s.workStep_cases f <;> rw [h] at hg <;> cases hg
    refine ⟨fun hg => harm (hread.ofArm hg), fun hg => hupdate (hread.ofUpdate hg), fun hm => ?_⟩
    obtain ⟨_, _, _, _, hwork, _⟩ | ⟨_, hwork, _⟩ := hread.activating hm
    · exact harm (by rw [hwork]; trivial)
    · exact hupdate (by rw [hwork]; trivial)
  · obtain ⟨hoff, hquiet⟩ := hs
    obtain ⟨harm, hupdate, hno⟩ := hquiet f hf
    refine ⟨Bool.eq_false_iff.mpr fun hon => ?_, fun g hg => ?_⟩
    · obtain hs | hm := State.activeAt_putAll (s := s) hon
      · cases hoff.symm.trans hs
      · exact hno hm
    · cases hg
      exact ⟨harm, hupdate, List.not_mem_nil⟩

/-- R124: a step of CMD makes a channel Active by a pending write, or, under `per_command`, by a whole PLAY, PLAY_CH or
UPDATE. -/
theorem State.cmdStep_activates {s t : State} {i : Nat} (hstep : s.cmdStep = .next t) (hoff : s.activeAt i = false)
    (hon : t.activeAt i = true) :
    .channel i (.active true) ∈ s.pending ∨
      (s.params.atomicity = .perCommand ∧
        ∃ cmd rest, decode s.host.port = some (cmd, rest) ∧ (isPlay cmd ∨ cmd = .update)) := by
  obtain ⟨f, hf, rfl⟩ | ⟨_, rfl⟩ | ⟨_, w, rest, rfl⟩ | ⟨_, cmd, rest, f, hdecode, hfirst, rfl⟩ :=
    State.cmdStep_next_cases hstep
  · rw [State.pending_of_inFlight hf]
    by_cases hw : f.writes = []
    · rw [State.advance_of_no_writes s f hw, State.activeAt_workStep] at hon
      cases hoff.symm.trans hon
    · obtain ⟨w, vs, hp, he⟩ := s.advance_of_writes f hw
      rw [he] at hon
      obtain hs | rfl := State.activeAt_put (s := s.orderTaken) hon
      · cases hoff.symm.trans hs
      · exact .inl (hp.mem_iff.mpr List.mem_cons_self)
  · cases hoff.symm.trans hon
  · cases hoff.symm.trans hon
  · obtain ⟨_, hl⟩ | ⟨hcommand, hl⟩ := (s.withPort rest).launch_cases f <;> rw [hl] at hon
    · cases hoff.symm.trans hon
    · refine .inr ⟨hcommand, cmd, rest, hdecode, ?_⟩
      obtain ⟨harm, hupdate⟩ := work_of_firstInFlight hfirst
      by_contra hother
      rw [not_or] at hother
      have hquiet : ((s.withPort rest).goesOn f).quietOn i := by
        refine ⟨hoff, fun g hg => ?_⟩
        cases hg
        exact ⟨fun h => hother.1 (harm h), fun h => hother.2 (hupdate h), not_activating_of_firstInFlight hfirst i⟩
      cases (State.quietOn_finish hquiet _).1.symm.trans hon

/-- R124: in a step of CMD a write that sets `active` becomes pending by CONFIGURE's immediate arm of that channel, or
by UPDATE's promotion of it. -/
theorem State.cmdStep_activating {s t : State} {i : Nat} (hstep : s.cmdStep = .next t)
    (hm : .channel i (.active true) ∈ t.pending) :
    .channel i (.active true) ∈ s.pending ∨
      ∃ f, s.inFlight = some f ∧ f.writes = [] ∧
        ((∃ vol freq dur delay, f.work = .configure i vol freq dur delay ∧ delay.toInt ≤ 0) ∨
         ∃ now, f.work = .updateStart now i ∧ (s.startTimeAt i).toNat ≤ now.toNat) := by
  obtain ⟨f, hf, rfl⟩ | ⟨_, rfl⟩ | ⟨_, w, rest, rfl⟩ | ⟨_, cmd, rest, f, _, hfirst, rfl⟩ :=
    State.cmdStep_next_cases hstep
  · by_cases hw : f.writes = []
    · rw [State.advance_of_no_writes s f hw] at hm
      obtain ⟨_, _, _, h⟩ | ⟨_, h⟩ | ⟨u, g, hread, h⟩ := s.workStep_cases f <;> rw [h] at hm
      · cases hm
      · cases hm
      · exact .inr ⟨f, hf, hw, hread.activating hm⟩
    · obtain ⟨w, vs, hp, he⟩ := s.advance_of_writes f hw
      rw [he] at hm
      rw [State.pending_of_inFlight hf]
      exact .inl (hp.mem_iff.mpr (List.mem_cons_of_mem w hm))
  · exact .inl hm
  · cases hm
  · obtain ⟨_, hl⟩ | ⟨_, hend⟩ := State.launch_inFlight (s := s.withPort rest) hfirst
    · rw [hl] at hm
      exact absurd hm (not_activating_of_firstInFlight hfirst i)
    · rw [State.pending_of_idle hend] at hm
      cases hm

/-- R124: a step of CMD leads to a position of PLAY and PLAY_CH, or of UPDATE, from one, or from such a command at the
head of the port. -/
theorem State.cmdStep_position {s t : State} {g : InFlight} (hstep : s.cmdStep = .next t) (hg : t.inFlight = some g) :
    (g.work.ofArm → (∃ f, s.inFlight = some f ∧ f.work.ofArm) ∨
      (s.inFlight = none ∧ ∃ cmd rest, decode s.host.port = some (cmd, rest) ∧ isPlay cmd)) ∧
    (g.work.ofUpdate → (∃ f, s.inFlight = some f ∧ f.work.ofUpdate) ∨
      (s.inFlight = none ∧ ∃ rest, decode s.host.port = some (.update, rest))) := by
  obtain ⟨f, hf, rfl⟩ | ⟨_, rfl⟩ | ⟨_, w, rest, rfl⟩ | ⟨hidle, cmd, rest, f, hdecode, hfirst, rfl⟩ :=
    State.cmdStep_next_cases hstep
  · by_cases hw : f.writes = []
    · rw [State.advance_of_no_writes s f hw] at hg
      obtain ⟨_, _, _, h⟩ | ⟨_, h⟩ | ⟨u, g', hread, h⟩ := s.workStep_cases f <;> rw [h] at hg <;> cases hg
      exact ⟨fun h => .inl ⟨f, hf, hread.ofArm h⟩, fun h => .inl ⟨f, hf, hread.ofUpdate h⟩⟩
    · obtain ⟨w, vs, _, he⟩ := s.advance_of_writes f hw
      rw [he] at hg
      cases hg
      exact ⟨fun h => .inl ⟨f, hf, h⟩, fun h => .inl ⟨f, hf, h⟩⟩
  · exact ⟨fun h => .inl ⟨g, hg, h⟩, fun h => .inl ⟨g, hg, h⟩⟩
  · cases hg
  · obtain ⟨_, hl⟩ | ⟨_, hend⟩ := State.launch_inFlight (s := s.withPort rest) hfirst
    · rw [hl] at hg
      cases hg
      obtain ⟨harm, hupdate⟩ := work_of_firstInFlight hfirst
      exact ⟨fun h => .inr ⟨hidle, cmd, rest, hdecode, harm h⟩, fun h => .inr ⟨hidle, rest, hupdate h ▸ hdecode⟩⟩
    · cases hend.symm.trans hg

/-- Settles O33: a TICK makes no channel Active and leaves the command in flight, and each part holds of CMD's steps;
HOST's answer that no TICK comes first changes nothing that the parts speak of. -/
theorem onlyArmsAndUpdateActivate : Obligations.OnlyArmsAndUpdateActivate := by
  refine ⟨fun s t i hstep hoff hon => ?_, fun s t i hstep hm => ?_, fun s t g hstep hg => ?_⟩
  · simp only [← or_assoc (a := ∃ vol freq dur delay, _ = Instr.play vol freq dur delay)]
    obtain ⟨_, _, rfl⟩ | h | h := step_next_cases hstep
    · cases hoff.symm.trans (State.activeAt_ticked (s := s.tickTaken) hon)
    · exact State.cmdStep_activates (s := s.tickTaken) h hoff hon
    · exact State.cmdStep_activates h hoff hon
  · obtain ⟨_, _, rfl⟩ | h | h := step_next_cases hstep
    · exact .inl hm
    · exact State.cmdStep_activating (s := s.tickTaken) h hm
    · exact State.cmdStep_activating h hm
  · obtain ⟨_, _, rfl⟩ | h | h := step_next_cases hstep
    · exact ⟨fun h => .inl ⟨g, hg, h⟩, fun h => .inl ⟨g, hg, h⟩⟩
    · exact State.cmdStep_position (s := s.tickTaken) h hg
    · exact State.cmdStep_position h hg

end Sys2Proof.Machine

/-! PROOFS. The run of spec/95_test_vectors.md 2.9 in which PLAY_CH on an Active channel loses its tone
(spec/70_reset_and_hazards.md R254). -/

namespace Sys2Proof.Machine

/-- 95_test_vectors.md 2.9: the one channel, Active, has played 100 samples, and PLAY_CH with a duration of 4 samples
is on the port. -/
def overwriteStart : State :=
  { State.resetWith 1 Config.defaultParams with
    pool := [{ phase := 0x80000000, phaseIncrement := 0x20000000, amplitude := 200, durationSamples := 0,
               samplesPlayed := 100, startTime := 0, envelope := 0, active := true, scheduled := false }]
    sampleRate := 8, running := true, setupDone := true
    host := { HostInputs.reset with port := encode (.playCh 200 0 0x00010000 0x00008000 0) } }

/-- HOST's answers about TICK in a run of 13 steps whose step behind the first `k` is the one TICK. -/
def oneTickAfter (k : Nat) : List Bool := List.replicate k false ++ true :: List.replicate (12 - k) false

/-- WRITE_ORDER's draws for the eight writes of the arm: the duration first, `active` second, then the others as they
stand. -/
def durationThenActive : List Nat := [2, 6, 0, 0, 0, 0, 0, 0]

/-- Settles O34: CMD's run takes 12 steps, the start, two reads, eight writes and the delivery. A TICK behind the
second write finds the channel Active with the new duration and the old count, which has passed it; a TICK behind the
last write plays the first sample. -/
theorem playChOnActiveChannelMayLoseTone : Obligations.PlayChOnActiveChannelMayLoseTone := by
  refine ⟨overwriteStart, rfl, rfl, rfl, rfl, rfl, by decide, rfl, rfl, ?lost, ?played⟩
  case lost => exact ⟨oneTickAfter 5, durationThenActive, 13, _, rfl, by decide⟩
  case played => exact ⟨oneTickAfter 11, durationThenActive, 13, _, rfl, by decide⟩

end Sys2Proof.Machine
